-- ==== Sys2Proof/Word.lean ====
section
/-! DEFINITION. The one data width of XBULL-FPE. -/

namespace Sys2Proof

/-- `u8` (00_scope.md R7): every wire field, register and NVM cell is one byte (20_memory.md R43). -/
abbrev Byte := BitVec 8

end Sys2Proof
end

