-- ==== Sys2Proof/Config.lean ====
section
/-! DEFINITION. What is fixed for one unit (00_scope.md R5): the values the spec fixes, and, as constants
without a body, the parameters it leaves OPEN and the draws the environment makes. -/

namespace Sys2Proof

/-- The two commands a parameter can be mapped for (41_dispatch_and_reply.md R121, R122). -/
inductive ExtCmd where
  | read
  | write
deriving DecidableEq, Repr

/-- Reply data an extension handler may ask for: at most 255 bytes (41_dispatch_and_reply.md R130). -/
structure ExtReply where
  data : List Byte
  fits : data.length ≤ 255

/-- How a handler behind EXT ends when it does not end in a length error:
`Done(clear, out, ext_state')` of 41_dispatch_and_reply.md R132. -/
structure ExtDone where
  clear : Bool
  out : Option ExtReply
  extState : List Byte

/-- What a handler does after its length gate: pool calls in program order, then its result
(10_state.md R35, 41_dispatch_and_reply.md R133). A handler is a finite tree, so it ends. -/
inductive ExtBody where
  | done (clear : Bool) (out : Option ExtReply) (extState : List Byte)
  | feed (bytes : List Byte) (k : ExtBody)
  | readDigest (k : List Byte → ExtBody)
  | boundedInteger (max : Byte) (k : Byte → ExtBody)
deriving Inhabited

/-- `ExtResult` (41_dispatch_and_reply.md R132). The gate comes before any side effect (R127), so a
`LengthError` has no pool call before it. -/
inductive ExtResult where
  | lengthError
  | run (body : ExtBody)
deriving Inhabited

namespace Config

/-! ## Values the spec fixes (R5, R47) -/

/-- `BROADCAST`. -/
abbrev broadcast : Byte := 0xFF
/-- `CMD_READ`. -/
abbrev cmdRead : Byte := 0x01
/-- `CMD_WRITE`. -/
abbrev cmdWrite : Byte := 0x81
/-- `CMD_ERROR`. -/
abbrev cmdError : Byte := 0xFF
/-- `P_ADDRESS`. -/
abbrev pAddress : Byte := 0x01
/-- `P_SEARCH`. -/
abbrev pSearch : Byte := 0x08
/-- `RXBUF_CAP`. -/
abbrev rxbufCap : Nat := 260

/-! ## HASH, OPEN (44_entropy_pool.md R200, R201; log 1) -/

/-- The size in bits of the hash's "fixed-size internal state". -/
opaque hashStateBits : Nat

/-- `HS`. -/
abbrev HashState := BitVec hashStateBits

/-- `H_init`. -/
opaque hashInit : HashState

/-- `H_update` of one byte; by R201 the update of a sequence is its fold. -/
opaque hashStep : HashState → Byte → HashState

/-- `DIGEST_LEN - 1` (R6: `DIGEST_LEN >= 1`). -/
opaque digestLenPred : Nat

/-- `DIGEST_LEN`. -/
def digestLen : Nat := digestLenPred + 1

/-- Byte `i` of `H_final`. -/
opaque hashDigestByte : HashState → Nat → Byte

/-! ## Capacities and bounds, OPEN (R5, R6; log 5) -/

/-- `USED_CAP - 1`. -/
opaque usedCapPred : Nat

/-- `USED_CAP`. -/
def usedCap : Nat := usedCapPred + 1

/-- `RETRY_BOUND - 1`. -/
opaque retryBoundPred : Nat

/-- `RETRY_BOUND`. -/
def retryBound : Nat := retryBoundPred + 1

/-- `N_NOISE_BYTES`. -/
opaque nNoiseBytes : Nat

/-! ## The NVM's layout and first contents, OPEN (R5, R6, U13; log 4, 5) -/

/-- `ADDR_NVM_OFFSET`. -/
opaque addrNvmOffset : Nat

/-- `SEED_NVM_BASE`. -/
opaque seedNvmBase : Nat

/-- `SEED_NVM_LEN`. -/
opaque seedNvmLen : Nat

/-- Cells beyond those R6 asks for. -/
opaque nvmSpare : Nat

/-- `NVM_SIZE`: any size that covers the three offsets (R6). -/
def nvmSize : Nat := max (addrNvmOffset + 1) (seedNvmBase + seedNvmLen) + nvmSpare

/-- The byte an NVM cell holds before this unit writes it. -/
opaque factoryNvm : Nat → Byte

/-! ## Draws (R9; log 3, 12, 20) -/

/-- The counter sample of draw `k` (44_entropy_pool.md R214, U6). -/
opaque counterSample : Nat → Byte

/-- Byte `i` of the noise of the power-up that `State.reset` describes (44_entropy_pool.md R215, U7). -/
opaque noiseByte : Nat → Byte

/-- Byte `i` of `digest` after the reset of draw `k` (10_state.md R36, U17). -/
opaque digestAfterReset : Nat → Nat → Byte

/-! ## EXT, OPEN (41_dispatch_and_reply.md R132 to R134; log 6) -/

/-- `EXT.mapped(cmd, P)`. -/
opaque extMapped : ExtCmd → Byte → Bool

/-- `EXT.handle(cmd, P, payload, address, ext_state)`, one result for each draw `k`. -/
opaque extHandle (k : Nat) (cmd : ExtCmd) (p : Byte) (payload : List Byte) (address : Byte)
  (extState : List Byte) : ExtResult

/-- `ext_state` right after reset. -/
opaque extStateAtReset : List Byte

/-- `ext_state` after a later power-up, from what it was before. -/
opaque extPowerUp : List Byte → List Byte

end Config

end Sys2Proof
end

