-- ==== Sys2Proof/Machine/Errors.lean ====
section
/-! DEFINITION. The error causes and their reason strings (60_exceptions.md R230). -/

namespace Sys2Proof.Machine

/-- The four causes that draw an error reply. ArbitrationExhausted is not one (43_arbitration.md R178). -/
inductive ErrorCause where
  | frameIntegrity
  | unknownCommand
  | unknownParameter
  | lengthMismatch
deriving DecidableEq, Repr

/-- The reply payload of each cause in ASCII, without a terminator (R230). -/
def errorText : ErrorCause → List Byte
  | .frameIntegrity =>
    [0x42, 0x61, 0x64, 0x20, 0x63, 0x68, 0x65, 0x63, 0x6B, 0x73, 0x75, 0x6D]
  | .unknownCommand =>
    [0x55, 0x6E, 0x68, 0x61, 0x6E, 0x64, 0x6C, 0x65, 0x64, 0x20, 0x63, 0x6F, 0x6D, 0x6D, 0x61, 0x6E, 0x64]
  | .unknownParameter =>
    [0x49, 0x6E, 0x76, 0x61, 0x6C, 0x69, 0x64, 0x20, 0x70, 0x61, 0x72, 0x61, 0x6D, 0x65, 0x74, 0x65, 0x72]
  | .lengthMismatch =>
    [0x49, 0x6E, 0x76, 0x61, 0x6C, 0x69, 0x64, 0x20, 0x6C, 0x65, 0x6E, 0x67, 0x74, 0x68]

end Sys2Proof.Machine
end

