-- ==== Sys2Proof/Machine/Framing.lean ====
section
/-! DEFINITION. The pure functions of frame reception (40_frame_reception.md R91 to R95) and frame assembly. -/

namespace Sys2Proof.Machine

/-- `is_candidate` (R91): `FRAME_OVERHEAD` is 5 (00_scope.md R5). -/
def isCandidate (buf : List Byte) : Bool := decide (5 ≤ buf.length)

/-- `buf[3] + 5` as a natural number (30_encoding.md R61); `none` where there is no `buf[3]`. -/
def declaredLength : List Byte → Option Nat
  | _ :: _ :: _ :: l :: _ => some (l.toNat + 5)
  | _ => none

/-- `is_frame_complete` (R92). -/
def isFrameComplete (buf : List Byte) : Bool :=
  match declaredLength buf with
  | some n => isCandidate buf && decide (n ≤ buf.length)
  | none => false

/-- `checksum` (R93): the sum of the bytes mod 256. -/
def checksum (s : List Byte) : Byte := BitVec.ofNat 8 (s.map BitVec.toNat).sum

/-- `checksum_ok` (R94): the sum of all bytes but the last, compared with the last. -/
def checksumOk (f : List Byte) : Bool := f.getLast? == some (checksum f.dropLast)

/-- The three destination classes (R95). -/
inductive DestClass where
  | broadcast
  | unicast
  | foreign
deriving DecidableEq, Repr

/-- `classify` (R95): the broadcast test is made first. -/
def classify (address a : Byte) : DestClass :=
  if a = Config.broadcast then .broadcast
  else if a = address then .unicast
  else .foreign

/-- The first `4 + L` bytes of a frame (30_encoding.md R60). -/
def frameBody (a c p : Byte) (data : List Byte) : List Byte :=
  a :: c :: p :: BitVec.ofNat 8 data.length :: data

/-- A frame with its checksum (30_encoding.md R60, R63). -/
def frameOf (a c p : Byte) (data : List Byte) : List Byte :=
  frameBody a c p data ++ [checksum (frameBody a c p data)]

end Sys2Proof.Machine
end

