-- ==== Sys2Proof/Machine/Memory.lean ====
section
/-! DEFINITION. The non-volatile byte store (20_memory.md R40 to R42) as a list of cells in one canonical form. -/

namespace Sys2Proof.Machine

/-- Cells (offset, byte), offsets strictly rising. -/
abbrev Memory := List Host.Cell

/-- What a cell this unit has not written reads as (93_implementation_defined.md U13; log 4). -/
def Memory.unlisted (off : Nat) : Byte := Config.factoryNvm off

/-- Offsets strictly rise from `low` on, lie in `0 .. NVM_SIZE-1`, and no cell holds what an unlisted one reads as. -/
def Memory.wfFrom : Nat → Memory → Bool
  | _, [] => true
  | low, (off, v) :: m =>
    decide (low ≤ off) && decide (off < Config.nvmSize) && decide (v ≠ Memory.unlisted off) &&
      Memory.wfFrom (off + 1) m

/-- The canonical form. -/
def Memory.wf (m : Memory) : Bool := Memory.wfFrom 0 m

/-- `MemRead(off, 1)` (R41). -/
def Memory.read : Memory → Nat → Byte
  | [], off => Memory.unlisted off
  | (k, v) :: m, off => if k = off then v else Memory.read m off

/-- Lists the byte `v` at `off`. -/
def Memory.put : Memory → Nat → Byte → Memory
  | [], off, v => [(off, v)]
  | (k, w) :: m, off, v =>
    if off < k then (off, v) :: (k, w) :: m
    else if off = k then (off, v) :: m
    else (k, w) :: Memory.put m off v

/-- Unlists `off`. -/
def Memory.erase : Memory → Nat → Memory
  | [], _ => []
  | (k, w) :: m, off => if k = off then m else (k, w) :: Memory.erase m off

/-- `MemWrite(off, 1, v)` (R42), keeping the canonical form. -/
def Memory.write (m : Memory) (off : Nat) (v : Byte) : Memory :=
  if v = Memory.unlisted off then Memory.erase m off else Memory.put m off v

/-- The bytes at `base .. base+len-1`. -/
def Memory.block (m : Memory) (base len : Nat) : List Byte :=
  (List.range len).map fun i => Memory.read m (base + i)

end Sys2Proof.Machine
end

