-- ==== Sys2Proof/Machine/Pool.lean ====
section
/-! DEFINITION. The entropy pool (44_entropy_pool.md) and the slot draws made from it (43_arbitration.md R175, R176). -/

namespace Sys2Proof.Machine

open Config (HashState)

/-- `H_update` (R200): by the law of R201 it is the fold of its effect on one byte (log 1). -/
def hashUpdate (h : HashState) (bytes : List Byte) : HashState := bytes.foldl Config.hashStep h

/-- `H_final` (R200): `DIGEST_LEN` bytes, the argument unchanged. -/
def hashFinal (h : HashState) : List Byte := (List.range Config.digestLen).map (Config.hashDigestByte h)

/-- The pool's registers (10_state.md R18, R19). -/
structure Pool where
  acc : HashState
  digest : List Byte
deriving DecidableEq, Repr

/-- `Feed` (R204). -/
def Pool.feed (q : Pool) (bytes : List Byte) : Pool := { q with acc := hashUpdate q.acc bytes }

/-- `ReadDigest` (R206); its result is the new `digest`. -/
def Pool.readDigest (q : Pool) : Pool :=
  { acc := hashUpdate q.acc (hashFinal q.acc), digest := hashFinal q.acc }

/-- `mask_for` (R208). -/
def maskFor (max : Byte) : Byte :=
  let m1 := max ||| (max >>> 1)
  let m2 := m1 ||| (m1 >>> 2)
  m2 ||| (m2 >>> 4)

/-- The scan of one digest from byte 0 upward: the first masked byte that is at most `max` (R210). -/
def scanDigest (max : Byte) : List Byte → Option Byte
  | [] => none
  | b :: rest => if b &&& maskFor max ≤ max then some (b &&& maskFor max) else scanDigest max rest

/-- What a draw gives: a value, or none where the pool never yields one, and the pool after it. -/
structure Draw where
  value : Option Byte
  pool : Pool
deriving DecidableEq, Repr

/-- The loop of R210 over at most `fuel` digests. -/
def drawLoop (max : Byte) : Nat → Pool → Draw
  | 0, q => ⟨none, q⟩
  | fuel + 1, q =>
    match scanDigest max q.readDigest.digest with
    | some c => ⟨some c, q.readDigest⟩
    | none => drawLoop max fuel q.readDigest

/-- As many digests as the accumulator has states: if none of them is accepted, none ever is (R212; log 2). -/
def drawFuel : Nat := 2 ^ Config.hashStateBits

/-- `BoundedInteger(max)` (R210). -/
def boundedInteger (max : Byte) (q : Pool) : Draw :=
  if max = 0 then ⟨some 0, q⟩ else drawLoop max drawFuel q

/-- `DrawSlot()` for `slot_count >= 1` (43_arbitration.md R175). -/
def drawSlot (slotCount : Byte) (q : Pool) : Draw :=
  { boundedInteger (slotCount - 1) q with value := (boundedInteger (slotCount - 1) q).value.map (1 + ·) }

/-- The attempts of `SelectSlot` (43_arbitration.md R176); the sentinel 0 when they are used up (R178). -/
def selectLoop (slotCount : Byte) (used : List Byte) : Nat → Pool → Draw
  | 0, q => ⟨some 0, q⟩
  | tries + 1, q =>
    match (drawSlot slotCount q).value with
    | none => drawSlot slotCount q
    | some c =>
      if c ∈ used then selectLoop slotCount used tries (drawSlot slotCount q).pool
      else drawSlot slotCount q

/-- `SelectSlot()` (43_arbitration.md R176). -/
def selectSlot (slotCount : Byte) (used : List Byte) (q : Pool) : Draw :=
  if slotCount = 0 then ⟨some 0, q⟩ else selectLoop slotCount used Config.retryBound q

/-- What running an extension handler's body gives: its result, or none where a pool call never ends. -/
structure ExtRun where
  result : Option ExtDone
  pool : Pool

/-- The pool calls of an extension handler in program order, then its result (41_dispatch_and_reply.md R133). -/
def runExt : ExtBody → Pool → ExtRun
  | .done clear out extState, q => ⟨some ⟨clear, out, extState⟩, q⟩
  | .feed bytes k, q => runExt k (q.feed bytes)
  | .readDigest k, q => runExt (k q.readDigest.digest) q.readDigest
  | .boundedInteger max k, q =>
    match (boundedInteger max q).value with
    | none => ⟨none, (boundedInteger max q).pool⟩
    | some v => runExt (k v) (boundedInteger max q).pool

end Sys2Proof.Machine
end

