-- ==== Sys2Proof/Machine/State.lean ====
section
/-! DEFINITION. The state of one unit (10_state.md R10), its input events, its faults and refusals, and the state
after reset (R36). -/

namespace Sys2Proof.Machine

/-- An input event (10_state.md section 8). -/
inductive Event where
  /-- `RxByte(b)` (R30). -/
  | rxByte (b : Byte)
  /-- `RxBytes(bs)`, several bytes at once (40_frame_reception.md R103). -/
  | rxBytes (bs : List Byte)
  /-- `RxFlush` (R32). -/
  | rxFlush
  /-- `Reset(noise)`, with the N_NOISE_BYTES bytes of R33. -/
  | reset (noise : Vector Byte Config.nNoiseBytes)
deriving DecidableEq, Repr

/-- A request on the internal port between the frame engine and the pool: the 2-bit select `pool_op` and the operand bytes
(30_encoding.md R70). -/
structure PoolRequest where
  select : BitVec 2
  operand : List Byte
deriving DecidableEq, Repr

/-- Why the machine stops with a fault. -/
inductive Fault where
  /-- Raised by `RxByte` when `rxbuf` already holds RXBUF_CAP bytes, where R90's store would fall outside the buffer.
  Safe: 40_frame_reception.md R102 derives that no run reaches it (log 14). -/
  | rxbufOverflow
deriving DecidableEq, Repr

/-- Why the machine refuses to go on. -/
inductive Refusal where
  /-- An instruction without a meaning, named as spec/opcode_table.json names it. Raised by no arm. Safe. -/
  | notModelled (mnemonic : String)
  /-- Raised by a request on the pool port that is none of the three operations: select `11`, "unused (never issued)"
  (30_encoding.md R70), or a wrong operand. Safe (log 9). -/
  | noPoolOperation
deriving DecidableEq, Repr

/-- The state of one unit. The first eleven fields are the spec's; the last six are the model's own. -/
structure State where
  /-- The unit's bus address (R11). -/
  address : Byte
  /-- The number of slots of the round (R12). -/
  slotCount : Byte
  /-- The current candidate slot, 0 for none (R13). -/
  selectedSlot : Byte
  /-- The output of the most recent selection (R14). -/
  nextSlot : Byte
  /-- The slots seen claimed, without repeats (R15). -/
  usedSlots : List Byte
  /-- `rxbuf[0 .. rxlen]` (R16). -/
  rxbuf : List Byte
  /-- `respond_suppressed` (R17). -/
  respondSuppressed : Bool
  /-- The pool's accumulator (R18). -/
  acc : Config.HashState
  /-- The last digest (R19). -/
  digest : List Byte
  /-- The non-volatile store (20_memory.md R40). -/
  nvm : Memory
  /-- The state of the devices behind EXT (41_dispatch_and_reply.md R132). -/
  extState : List Byte
  /-- The frames handed to the transport, oldest first (R31; log 8). -/
  tx : List (List Byte)
  /-- The request on the internal pool port that waits to be served. A frame's own requests are made and served within its
  step, so no event fills the port (30_encoding.md R70, 44_entropy_pool.md R217; log 9). -/
  port : Option PoolRequest
  /-- What the last BOUNDED_INTEGER request on the pool port returned (30_encoding.md R70; log 9). -/
  poolResult : Byte
  /-- The input events not yet handled, oldest first (log 7). -/
  events : List Event
  /-- The number of draws made, so that each is a fresh free value (R9; log 3). -/
  drawIndex : Nat
  /-- The unit is inside a BoundedInteger loop that never ends (44_entropy_pool.md R212; log 2). -/
  hung : Bool
deriving DecidableEq, Repr

/-- `rxlen` (R16). -/
def State.rxlen (s : State) : Nat := s.rxbuf.length

/-- The noise of the first power-up (44_entropy_pool.md R215). -/
def firstNoise : Vector Byte Config.nNoiseBytes := Vector.ofFn fun i => Config.noiseByte i

/-- `digest` after the reset of draw `k`: unspecified bytes (R36; log 12). -/
def unspecifiedDigest (k : Nat) : List Byte := (List.range Config.digestLen).map (Config.digestAfterReset k)

/-- `acc` after `Seed(noise)` on the NVM `m` (44_entropy_pool.md R215). -/
def seedAcc (noise : Vector Byte Config.nNoiseBytes) (m : Memory) : Config.HashState :=
  hashUpdate (hashUpdate Config.hashInit noise.toList) (m.block Config.seedNvmBase Config.seedNvmLen)

/-- The unit right after its first power-up (R36), its NVM as the factory left it and no event pending. -/
def State.reset : State where
  address := Memory.read [] Config.addrNvmOffset
  slotCount := 0
  selectedSlot := 0
  nextSlot := 0
  usedSlots := []
  rxbuf := []
  respondSuppressed := false
  acc := seedAcc firstNoise []
  digest := unspecifiedDigest 0
  nvm := []
  extState := Config.extStateAtReset
  tx := []
  port := none
  poolResult := 0
  events := []
  drawIndex := 1
  hung := false

end Sys2Proof.Machine
end

