-- ==== Sys2Proof/Machine/Flags.lean ====
section
/-! DEFINITION. The one flag, `respond_suppressed` (10_state.md R17). There are no condition codes. -/

namespace Sys2Proof.Machine

/-- The assignment at the start of the handling of a complete frame (40_frame_reception.md R97). -/
def State.setSuppression (s : State) (dest : DestClass) : State :=
  { s with respondSuppressed := decide (dest = .broadcast) }

/-- `respond_suppressed <- false`, by one of the three handlers that opt out (41_dispatch_and_reply.md R126). -/
def State.clearSuppression (s : State) : State := { s with respondSuppressed := false }

end Sys2Proof.Machine
end

