-- ==== Sys2Proof/Machine/Ops.lean ====
section
/-! DEFINITION. The named operations over registers, NVM, pool and transport that the meanings share. -/

namespace Sys2Proof.Machine

/-! ## Output (41_dispatch_and_reply.md R125, 60_exceptions.md R236) -/

/-- `Reply(c, p, data)` (41_dispatch_and_reply.md R125): nothing is sent while suppressed; byte 0 is `address` now (R128).
`TxFrame` (10_state.md R31) appends the whole frame to `tx`. -/
def State.reply (s : State) (c p : Byte) (data : List Byte) : State :=
  { s with tx := if s.respondSuppressed then s.tx else s.tx ++ [frameOf s.address c p data] }

/-- `raise E(p)` (60_exceptions.md R236): TAKING AN EXCEPTION. The error reply goes out through the same gate, nothing is
saved, and no register changes (R241). There is no return from it: the next frame is handled as if the error had not
happened (R239). -/
def State.raise (s : State) (e : ErrorCause) (p : Byte) : State :=
  s.reply Config.cmdError p (errorText e)

/-! ## Registers and NVM -/

/-- An honoured write of the address register: register and NVM together (42_address_register.md R151, R154). -/
def State.storeAddress (s : State) (new : Byte) : State :=
  { s with address := new, nvm := s.nvm.write Config.addrNvmOffset new }

/-- `UsedInsert(v)` (43_arbitration.md R174). -/
def State.usedInsert (s : State) (v : Byte) : State :=
  { s with
    usedSlots :=
      if v ∈ s.usedSlots then s.usedSlots
      else if s.usedSlots.length < Config.usedCap then s.usedSlots ++ [v]
      else s.usedSlots }

/-- The register writes with which a round begins (43_arbitration.md R171). -/
def State.beginRound (s : State) (slots : Byte) : State := { s with slotCount := slots, usedSlots := [] }

/-! ## Pool -/

/-- The pool's registers. -/
def State.pool (s : State) : Pool := ⟨s.acc, s.digest⟩

/-- Writes the pool's registers back. -/
def State.withPool (s : State) (q : Pool) : State := { s with acc := q.acc, digest := q.digest }

/-- One more draw has been made (00_scope.md R9; log 3). -/
def State.countDraw (s : State) : State := { s with drawIndex := s.drawIndex + 1 }

/-- `SelectSlot()` and the write of its result to both slot registers (10_state.md R14, 43_arbitration.md R176). Where the
draw never ends the unit hangs with both registers as they were (44_entropy_pool.md R212; log 2). -/
def State.takeSlot (s : State) : State :=
  { s with
    selectedSlot := (selectSlot s.slotCount s.usedSlots s.pool).value.getD s.selectedSlot
    nextSlot := (selectSlot s.slotCount s.usedSlots s.pool).value.getD s.nextSlot
    acc := (selectSlot s.slotCount s.usedSlots s.pool).pool.acc
    digest := (selectSlot s.slotCount s.usedSlots s.pool).pool.digest
    hung := s.hung || (selectSlot s.slotCount s.usedSlots s.pool).value.isNone }

/-- The rest of an operation after a draw: a unit that hangs never reaches it. -/
def State.whenLive (s : State) (rest : State → State) : State := if s.hung then s else rest s

/-- `CounterFeed()` (44_entropy_pool.md R214), the last action of every frame; a unit that hangs never reaches it. -/
def State.counterFeed (s : State) : State :=
  { s with
    acc := if s.hung then s.acc else hashUpdate s.acc [Config.counterSample s.drawIndex]
    drawIndex := if s.hung then s.drawIndex else s.drawIndex + 1 }

/-! ## Reset -/

/-- `Reset(noise)` (70_reset_and_hazards.md R270, 10_state.md R36): power-up. The NVM is kept and nothing is transmitted. -/
def State.powerUp (s : State) (noise : Vector Byte Config.nNoiseBytes) : State where
  address := s.nvm.read Config.addrNvmOffset
  slotCount := 0
  selectedSlot := 0
  nextSlot := 0
  usedSlots := []
  rxbuf := []
  respondSuppressed := false
  acc := seedAcc noise s.nvm
  digest := unspecifiedDigest s.drawIndex
  nvm := s.nvm
  extState := Config.extPowerUp s.extState
  tx := s.tx
  port := none
  poolResult := 0
  events := s.events
  drawIndex := s.drawIndex + 1
  hung := false

end Sys2Proof.Machine
end

