-- ==== Sys2Proof/Syntax.lean ====
section
/-! DEFINITION. The operations of XBULL-FPE, one constructor per row of spec/opcode_table.json. -/

namespace Sys2Proof

/-- The destination of a frame the unit acts on: `Destination::Unicast(addr) | Destination::Broadcast`
(40_frame_reception.md R95). -/
inductive LocalDest where
  | broadcast
  | unicast (a : Byte)
deriving DecidableEq, Repr

/-- The operations (30_encoding.md R72, R67, R68, R70). A request carries its destination and its whole payload,
so that no byte of its frame is lost; `d` is the destination, `a` a foreign destination byte. -/
inductive Instr where
  /-- 43_arbitration.md R173; `v` is the advertised slot. -/
  | snoopSearch (a v : Byte)
  /-- 40_frame_reception.md R98; any other foreign frame, with its checksum byte as received. -/
  | ignoreForeign (a c p : Byte) (payload : List Byte) (ck : Byte)
  /-- 42_address_register.md R150. -/
  | rdAddr (d : LocalDest) (payload : List Byte)
  /-- 43_arbitration.md R172. -/
  | rdSearch (d : LocalDest) (probed : Byte)
  /-- 43_arbitration.md R179. -/
  | illLenRdSearch (d : LocalDest) (payload : List Byte)
  /-- 41_dispatch_and_reply.md R132. -/
  | rdExt (d : LocalDest) (p : Byte) (payload : List Byte)
  /-- 42_address_register.md R151. -/
  | wrAddr1 (d : LocalDest) (new : Byte)
  /-- 42_address_register.md R152. -/
  | wrAddr2 (d : LocalDest) (new slot : Byte)
  /-- 42_address_register.md R153. -/
  | illLenWrAddr (d : LocalDest) (payload : List Byte)
  /-- 43_arbitration.md R171. -/
  | wrSearch (d : LocalDest) (slots : Byte)
  /-- 43_arbitration.md R179. -/
  | illLenWrSearch (d : LocalDest) (payload : List Byte)
  /-- 41_dispatch_and_reply.md R132. -/
  | wrExt (d : LocalDest) (p : Byte) (payload : List Byte)
  /-- 41_dispatch_and_reply.md R123. -/
  | illCmd (d : LocalDest) (c p : Byte) (payload : List Byte)
  /-- The reply of RD_ADDR (30_encoding.md R67). -/
  | rplRdAddr
  /-- The reply of RD_SEARCH (43_arbitration.md R172). -/
  | rplRdSearch
  /-- The reply of WR_ADDR1 and WR_ADDR2 (41_dispatch_and_reply.md R129). -/
  | rplWrAddr
  /-- The reply of WR_SEARCH (41_dispatch_and_reply.md R129). -/
  | rplWrSearch
  /-- The reply an extension handler asks for (41_dispatch_and_reply.md R132). -/
  | rplExt (cmd : ExtCmd) (p : Byte) (data : List Byte)
  /-- 60_exceptions.md R230, FrameIntegrityError. -/
  | errBadChecksum
  /-- 60_exceptions.md R230, UnknownCommand. -/
  | errUnhandledCommand
  /-- 60_exceptions.md R230, LengthMismatch. -/
  | errInvalidLength (p : Byte)
  /-- 60_exceptions.md R230, UnknownParameter. -/
  | errInvalidParameter (p : Byte)
  /-- 44_entropy_pool.md R204. -/
  | feed (bytes : List Byte)
  /-- 44_entropy_pool.md R206. -/
  | readDigest
  /-- 44_entropy_pool.md R210. -/
  | boundedInteger (max : Byte)
deriving DecidableEq, Repr

end Sys2Proof
end

