-- ==== Sys2Proof/Machine/Operands.lean ====
section
/-! DEFINITION. Operand forms (30_encoding.md R65): payload bytes as they stand, the destination class of a request, and
the length gate. -/

namespace Sys2Proof

/-- The class `dest` that Dispatch passes on (41_dispatch_and_reply.md R120). -/
def LocalDest.cls : LocalDest → Machine.DestClass
  | .broadcast => .broadcast
  | .unicast _ => .unicast

namespace Machine

/-- `LengthGate(P, payload, allowed)` before the rest of a handler (41_dispatch_and_reply.md R127): a wrong length raises
LengthMismatch and the rest is abandoned. -/
def State.lengthGate (s : State) (p : Byte) (payload : List Byte) (allowed : List Nat) (rest : State → State) : State :=
  if payload.length ∈ allowed then rest s else s.raise .lengthMismatch p

/-- `payload[i]` (30_encoding.md R65). -/
def operandByte (payload : List Byte) (i : Nat) : Byte := payload.getD i 0

end Machine

end Sys2Proof
end

