-- ==== Sys2Proof/Machine/AddressRegister.lean ====
section
/-! DEFINITION. Parameter 0x01, the address register (42_address_register.md). -/

namespace Sys2Proof.Machine

/-- R150: `Reply(0x01, 0x01, [address])`, the payload ignored. -/
def execRdAddr (s : State) : Host.Outcome State Fault Refusal :=
  .next (s.reply Config.cmdRead Config.pAddress [s.address])

/-- R151: store, then reply from the new address; suppression is not cleared. -/
def execWrAddr1 (new : Byte) (s : State) : Host.Outcome State Fault Refusal :=
  .next ((s.storeAddress new).reply Config.cmdWrite Config.pAddress [])

/-- R152: honoured only if `slot` is this unit's `selected_slot`, and then acknowledged even on a broadcast. -/
def execWrAddr2 (new slot : Byte) (s : State) : Host.Outcome State Fault Refusal :=
  .next (if slot = s.selectedSlot then
    ((s.storeAddress new).clearSuppression).reply Config.cmdWrite Config.pAddress []
  else s)

/-- R153: the gate raises LengthMismatch. -/
def execIllLenWrAddr (s : State) : Host.Outcome State Fault Refusal :=
  .next (s.raise .lengthMismatch Config.pAddress)

end Sys2Proof.Machine
end

