-- ==== Sys2Proof/WellFormed.lean ====
section
/-! DEFINITION. Which terms of Instr stand for a row of the operation map (30_encoding.md R72), and which of
them a unit at a given address can meet. -/

namespace Sys2Proof

open Machine

/-- A payload's length is one byte (30_encoding.md R60). -/
def payloadFits (payload : List Byte) : Bool := decide (payload.length ≤ 255)

/-- 0xFF is never a unicast or foreign destination (40_frame_reception.md R95). -/
def LocalDest.wellFormed : LocalDest → Bool
  | .broadcast => true
  | .unicast a => decide (a ≠ Config.broadcast)

/-- A parameter that is not one of the two in scope (30_encoding.md R72 rows 6, 12). -/
def isExtParam (p : Byte) : Bool := decide (p ≠ Config.pAddress) && decide (p ≠ Config.pSearch)

/-- The shape SNOOP_SEARCH takes: a search reply with a good checksum (40_frame_reception.md R98). -/
def isSnoopShape (a c p : Byte) (payload : List Byte) (ck : Byte) : Bool :=
  decide (c = Config.cmdRead) && decide (p = Config.pSearch) && decide (payload.length = 1) &&
    decide (ck = checksum (frameBody a c p payload))

/-- The conditions of the row that hold of the term alone. -/
def Instr.wellFormed : Instr → Bool
  | .snoopSearch a _ => decide (a ≠ Config.broadcast)
  | .ignoreForeign a c p payload ck =>
    decide (a ≠ Config.broadcast) && payloadFits payload && !isSnoopShape a c p payload ck
  | .rdAddr d payload => d.wellFormed && payloadFits payload
  | .rdSearch d _ => d.wellFormed
  | .illLenRdSearch d payload => d.wellFormed && payloadFits payload && decide (payload.length ≠ 1)
  | .rdExt d p payload => d.wellFormed && payloadFits payload && isExtParam p
  | .wrAddr1 d _ => d.wellFormed
  | .wrAddr2 d _ _ => d.wellFormed
  | .illLenWrAddr d payload =>
    d.wellFormed && payloadFits payload && decide (payload.length ≠ 1) && decide (payload.length ≠ 2)
  | .wrSearch d _ => d.wellFormed
  | .illLenWrSearch d payload => d.wellFormed && payloadFits payload && decide (payload.length ≠ 1)
  | .wrExt d p payload => d.wellFormed && payloadFits payload && isExtParam p
  | .illCmd d c _ payload =>
    d.wellFormed && payloadFits payload && decide (c ≠ Config.cmdRead) && decide (c ≠ Config.cmdWrite)
  | .rplRdAddr => true
  | .rplRdSearch => true
  | .rplWrAddr => true
  | .rplWrSearch => true
  | .rplExt _ p data => payloadFits data && isExtParam p
  | .errBadChecksum => true
  | .errUnhandledCommand => true
  | .errInvalidLength _ => true
  | .errInvalidParameter _ => true
  | .feed _ => true
  | .readDigest => true
  | .boundedInteger _ => true

/-- A unicast frame of the unit at `address` names that address. -/
def LocalDest.fits (address : Byte) : LocalDest → Bool
  | .broadcast => true
  | .unicast a => decide (a = address)

/-- The destination class of the row, for a unit at `address` (`dest_class` of spec/opcode_table.json). -/
def Instr.fits (address : Byte) : Instr → Bool
  | .snoopSearch a _ => decide (a ≠ address)
  | .ignoreForeign a _ _ _ _ => decide (a ≠ address)
  | .rdAddr d _ => d.fits address
  | .rdSearch d _ => d.fits address
  | .illLenRdSearch d _ => d.fits address
  | .rdExt d _ _ => d.fits address
  | .wrAddr1 d _ => d.fits address
  | .wrAddr2 d _ _ => d.fits address
  | .illLenWrAddr d _ => d.fits address
  | .wrSearch d _ => d.fits address
  | .illLenWrSearch d _ => d.fits address
  | .wrExt d _ _ => d.fits address
  | .illCmd d _ _ _ => d.fits address
  | .rplRdAddr => true
  | .rplRdSearch => true
  | .rplWrAddr => true
  | .rplWrSearch => true
  | .rplExt _ _ _ => true
  | .errBadChecksum => true
  | .errUnhandledCommand => true
  | .errInvalidLength _ => true
  | .errInvalidParameter _ => true
  | .feed _ => true
  | .readDigest => true
  | .boundedInteger _ => true

end Sys2Proof
end

