-- ==== Sys2Proof/Decode.lean ====
section
/-! DEFINITION. Frames to operations and back: the decoder of received frames (30_encoding.md R72, R69), of
emitted frames (R67, R68) and of pool requests (R70), the encoder, and the operation map as a table. -/

namespace Sys2Proof

open Machine

/-- Why bytes are no operation. -/
inductive DecodeReject where
  /-- Fewer than 5 bytes (R92). -/
  | tooShort
  /-- Fewer than `frame[3] + 5` bytes (R92). -/
  | incomplete
  /-- More than `frame[3] + 5` bytes: the excess belongs to the next frame (40_frame_reception.md R96). -/
  | trailingBytes
  /-- A unicast frame whose checksum fails (40_frame_reception.md R100). -/
  | badChecksumUnicast
  /-- A broadcast frame whose checksum fails (40_frame_reception.md R99). -/
  | badChecksumBroadcast
  /-- Read as an emitted frame, its byte 0 is not this unit's address (41_dispatch_and_reply.md R128). -/
  | foreignReply
  /-- Read as an emitted frame, its checksum fails (30_encoding.md R67). -/
  | badReplyChecksum
  /-- None of the nine reply rows. -/
  | noReplyForm
  /-- Pool select `11`, "unused (never issued)" (30_encoding.md R70). -/
  | unusedPoolSelect
  /-- A pool request whose operand is not the one its operation takes. -/
  | poolOperand
deriving DecidableEq, Repr

/-! ## Received frames -/

/-- The fields of a frame (30_encoding.md R60). -/
structure Frame where
  dest : Byte
  cmd : Byte
  param : Byte
  payload : List Byte
  ck : Byte
deriving DecidableEq, Repr

/-- Cuts a byte string into the fields of a frame; it must hold exactly `frame[3] + 5` bytes (R61). -/
def parseFrame : List Byte → Except DecodeReject Frame
  | a :: c :: p :: l :: rest =>
    if rest.length < 1 then .error .tooShort
    else if rest.length < l.toNat + 1 then .error .incomplete
    else if l.toNat + 1 < rest.length then .error .trailingBytes
    else .ok ⟨a, c, p, rest.dropLast, rest.getLastD 0⟩
  | _ => .error .tooShort

/-- Rows 3 to 13 of R72: a frame with a good checksum that is for this unit. -/
def decodeLocal (d : LocalDest) (c p : Byte) (payload : List Byte) : Instr :=
  if c = Config.cmdRead then
    if p = Config.pAddress then .rdAddr d payload
    else if p = Config.pSearch then
      match payload with
      | [probed] => .rdSearch d probed
      | _ => .illLenRdSearch d payload
    else .rdExt d p payload
  else if c = Config.cmdWrite then
    if p = Config.pAddress then
      match payload with
      | [new] => .wrAddr1 d new
      | [new, slot] => .wrAddr2 d new slot
      | _ => .illLenWrAddr d payload
    else if p = Config.pSearch then
      match payload with
      | [slots] => .wrSearch d slots
      | _ => .illLenWrSearch d payload
    else .wrExt d p payload
  else .illCmd d c p payload

/-- Rows 1 and 2 of R72 (40_frame_reception.md R98). -/
def decodeForeign (ok : Bool) (f : Frame) : Instr :=
  if ok = true ∧ f.cmd = Config.cmdRead ∧ f.param = Config.pSearch then
    match f.payload with
    | [v] => .snoopSearch f.dest v
    | _ => .ignoreForeign f.dest f.cmd f.param f.payload f.ck
  else .ignoreForeign f.dest f.cmd f.param f.payload f.ck

/-- The operation a unit at `address` performs for the frame with these bytes (R72, 40_frame_reception.md R97). -/
def decode (address : Byte) (bytes : List Byte) : Except DecodeReject Instr :=
  match parseFrame bytes with
  | .error r => .error r
  | .ok f =>
    match classify address f.dest with
    | .broadcast =>
      if checksumOk bytes then .ok (decodeLocal .broadcast f.cmd f.param f.payload)
      else .error .badChecksumBroadcast
    | .unicast =>
      if checksumOk bytes then .ok (decodeLocal (.unicast f.dest) f.cmd f.param f.payload)
      else .error .badChecksumUnicast
    | .foreign => .ok (decodeForeign (checksumOk bytes) f)

/-! ## Emitted frames -/

/-- The reply row of the fields after the address byte (30_encoding.md R67, R68, 60_exceptions.md R230). UnknownCommand
and UnknownParameter for parameter 0x00 differ in the text only. -/
def decodeReplyBody (address nextSlot c p : Byte) (payload : List Byte) : Except DecodeReject Instr :=
  if c = Config.cmdError then
    if payload = errorText .lengthMismatch then .ok (.errInvalidLength p)
    else if payload = errorText .unknownParameter then .ok (.errInvalidParameter p)
    else if p = 0 ∧ payload = errorText .frameIntegrity then .ok .errBadChecksum
    else if p = 0 ∧ payload = errorText .unknownCommand then .ok .errUnhandledCommand
    else .error .noReplyForm
  else if c = Config.cmdRead then
    if p = Config.pAddress then if payload = [address] then .ok .rplRdAddr else .error .noReplyForm
    else if p = Config.pSearch then if payload = [nextSlot] then .ok .rplRdSearch else .error .noReplyForm
    else .ok (.rplExt .read p payload)
  else if c = Config.cmdWrite then
    if p = Config.pAddress then if payload = [] then .ok .rplWrAddr else .error .noReplyForm
    else if p = Config.pSearch then if payload = [] then .ok .rplWrSearch else .error .noReplyForm
    else .ok (.rplExt .write p payload)
  else .error .noReplyForm

/-- The reply row of a frame this unit emits while its registers hold `address` and `nextSlot`. -/
def decodeReply (address nextSlot : Byte) (bytes : List Byte) : Except DecodeReject Instr :=
  match parseFrame bytes with
  | .error r => .error r
  | .ok f =>
    if f.dest ≠ address then .error .foreignReply
    else if checksumOk bytes then decodeReplyBody address nextSlot f.cmd f.param f.payload
    else .error .badReplyChecksum

/-! ## Pool requests -/

/-- The pool operation of a request on the internal port: its 2-bit select and its operand bytes (30_encoding.md R70). -/
def decodePool (select : BitVec 2) (operand : List Byte) : Except DecodeReject Instr :=
  if select = 0 then .ok (.feed operand)
  else if select = 1 then if operand = [] then .ok .readDigest else .error .poolOperand
  else if select = 2 then
    match operand with
    | [max] => .ok (.boundedInteger max)
    | _ => .error .poolOperand
  else .error .unusedPoolSelect

/-! ## The encoder -/

/-- An operation as its words: a received frame, an emitted frame, or a pool request. -/
inductive Encoded where
  | request (bytes : List Byte)
  | reply (bytes : List Byte)
  | pool (select : BitVec 2) (operand : List Byte)
deriving DecidableEq, Repr

/-- The destination byte (30_encoding.md R60). -/
def LocalDest.byte : LocalDest → Byte
  | .broadcast => Config.broadcast
  | .unicast a => a

/-- The command byte an extension request carries and its reply echoes (41_dispatch_and_reply.md R132). -/
def ExtCmd.byte : ExtCmd → Byte
  | .read => Config.cmdRead
  | .write => Config.cmdWrite

/-- The frame of an error reply of a unit at `address` (60_exceptions.md R236). -/
def errorFrame (address : Byte) (e : ErrorCause) (p : Byte) : List Byte :=
  frameOf address Config.cmdError p (errorText e)

/-- The words of an operation (R60 to R72). `address` and `nextSlot` are the registers a reply carries. -/
def encode (address nextSlot : Byte) : Instr → Encoded
  | .snoopSearch a v => .request (frameOf a Config.cmdRead Config.pSearch [v])
  | .ignoreForeign a c p payload ck => .request (frameBody a c p payload ++ [ck])
  | .rdAddr d payload => .request (frameOf d.byte Config.cmdRead Config.pAddress payload)
  | .rdSearch d probed => .request (frameOf d.byte Config.cmdRead Config.pSearch [probed])
  | .illLenRdSearch d payload => .request (frameOf d.byte Config.cmdRead Config.pSearch payload)
  | .rdExt d p payload => .request (frameOf d.byte Config.cmdRead p payload)
  | .wrAddr1 d new => .request (frameOf d.byte Config.cmdWrite Config.pAddress [new])
  | .wrAddr2 d new slot => .request (frameOf d.byte Config.cmdWrite Config.pAddress [new, slot])
  | .illLenWrAddr d payload => .request (frameOf d.byte Config.cmdWrite Config.pAddress payload)
  | .wrSearch d slots => .request (frameOf d.byte Config.cmdWrite Config.pSearch [slots])
  | .illLenWrSearch d payload => .request (frameOf d.byte Config.cmdWrite Config.pSearch payload)
  | .wrExt d p payload => .request (frameOf d.byte Config.cmdWrite p payload)
  | .illCmd d c p payload => .request (frameOf d.byte c p payload)
  | .rplRdAddr => .reply (frameOf address Config.cmdRead Config.pAddress [address])
  | .rplRdSearch => .reply (frameOf address Config.cmdRead Config.pSearch [nextSlot])
  | .rplWrAddr => .reply (frameOf address Config.cmdWrite Config.pAddress [])
  | .rplWrSearch => .reply (frameOf address Config.cmdWrite Config.pSearch [])
  | .rplExt cmd p data => .reply (frameOf address cmd.byte p data)
  | .errBadChecksum => .reply (errorFrame address .frameIntegrity 0)
  | .errUnhandledCommand => .reply (errorFrame address .unknownCommand 0)
  | .errInvalidLength p => .reply (errorFrame address .lengthMismatch p)
  | .errInvalidParameter p => .reply (errorFrame address .unknownParameter p)
  | .feed bytes => .pool 0 bytes
  | .readDigest => .pool 1 []
  | .boundedInteger max => .pool 2 [max]

/-- The words have exactly the length their fourth byte declares (R61), or a select code that is issued (R70). -/
def Encoded.exact : Encoded → Bool
  | .request bytes => declaredLength bytes == some bytes.length
  | .reply bytes => declaredLength bytes == some bytes.length
  | .pool select _ => select != 3

/-- Reads words in the direction they travel. -/
def decodeEncoded (address nextSlot : Byte) : Encoded → Except DecodeReject Instr
  | .request bytes => decode address bytes
  | .reply bytes => decodeReply address nextSlot bytes
  | .pool select operand => decodePool select operand

/-! ## The operation map as a table (30_encoding.md R66, R72) -/

/-- The thirteen request rows, in the order of R72. -/
inductive RequestRow where
  | snoopSearch | ignoreForeign | rdAddr | rdSearch | illLenRdSearch | rdExt | wrAddr1
  | wrAddr2 | illLenWrAddr | wrSearch | illLenWrSearch | wrExt | illCmd
deriving DecidableEq, Repr

/-- One row: the destination class is foreign or not, and `HW &&& mask = value` (R66). -/
structure MapRow where
  row : RequestRow
  foreign : Bool
  mask : BitVec 32
  value : BitVec 32
deriving DecidableEq, Repr

/-- The request rows of spec/opcode_table.json by priority. -/
def operationMap : List MapRow :=
  [⟨.snoopSearch, true, 0x00FFFFFF, 0x00010801⟩,
   ⟨.ignoreForeign, true, 0x00000000, 0x00000000⟩,
   ⟨.rdAddr, false, 0x00FFFF00, 0x00010100⟩,
   ⟨.rdSearch, false, 0x00FFFFFF, 0x00010801⟩,
   ⟨.illLenRdSearch, false, 0x00FFFF00, 0x00010800⟩,
   ⟨.rdExt, false, 0x00FF0000, 0x00010000⟩,
   ⟨.wrAddr1, false, 0x00FFFFFF, 0x00810101⟩,
   ⟨.wrAddr2, false, 0x00FFFFFF, 0x00810102⟩,
   ⟨.illLenWrAddr, false, 0x00FFFF00, 0x00810100⟩,
   ⟨.wrSearch, false, 0x00FFFFFF, 0x00810801⟩,
   ⟨.illLenWrSearch, false, 0x00FFFF00, 0x00810800⟩,
   ⟨.wrExt, false, 0x00FF0000, 0x00810000⟩,
   ⟨.illCmd, false, 0x00000000, 0x00000000⟩]

/-- The header word (R66). -/
def headerWord (a c p l : Byte) : BitVec 32 := a ++ c ++ p ++ l

/-- "Rows are tested top to bottom; the first that matches is taken" (R72). -/
def firstRow (foreign : Bool) (hw : BitVec 32) : Option RequestRow :=
  (operationMap.find? fun r => r.foreign == foreign && (hw &&& r.mask) == r.value).map MapRow.row

/-- The row a request stands for. -/
def Instr.requestRow : Instr → Option RequestRow
  | .snoopSearch _ _ => some .snoopSearch
  | .ignoreForeign _ _ _ _ _ => some .ignoreForeign
  | .rdAddr _ _ => some .rdAddr
  | .rdSearch _ _ => some .rdSearch
  | .illLenRdSearch _ _ => some .illLenRdSearch
  | .rdExt _ _ _ => some .rdExt
  | .wrAddr1 _ _ => some .wrAddr1
  | .wrAddr2 _ _ _ => some .wrAddr2
  | .illLenWrAddr _ _ => some .illLenWrAddr
  | .wrSearch _ _ => some .wrSearch
  | .illLenWrSearch _ _ => some .illLenWrSearch
  | .wrExt _ _ _ => some .wrExt
  | .illCmd _ _ _ _ => some .illCmd
  | .rplRdAddr => none
  | .rplRdSearch => none
  | .rplWrAddr => none
  | .rplWrSearch => none
  | .rplExt _ _ _ => none
  | .errBadChecksum => none
  | .errUnhandledCommand => none
  | .errInvalidLength _ => none
  | .errInvalidParameter _ => none
  | .feed _ => none
  | .readDigest => none
  | .boundedInteger _ => none

/-! ## Words numbered as spec/opcode_table.json numbers them (log 10) -/

/-- Byte `i` of the table word `w`, byte 0 the least significant. -/
def tableByte (w i : Nat) : Byte := BitVec.ofNat 8 (w / 256 ^ i)

/-- The frame of a 32-bit table word (R66): its four header bytes, a payload of zeros, and the checksum. -/
def tableFrame (w : Nat) : List Byte :=
  frameOf (tableByte w 3) (tableByte w 2) (tableByte w 1) (List.replicate (tableByte w 0).toNat 0)

/-- The pool select of an 8-bit table word (R70): its two low bits. -/
def tableSelect (w : Nat) : BitVec 2 := BitVec.ofNat 2 w

/-- The operand of a pool table word: one zero byte for the two operations that have one. -/
def tableOperand (w : Nat) : List Byte := if tableSelect w = 1 then [] else [0]

/-- The operation of a table word. The destination class is not among a word's bits: a word is read as a frame for
this unit, the unit being at the word's own destination (log 10). -/
def decodeTableWord (nbits w : Nat) : Option Instr :=
  if nbits = 32 then (decode (tableByte w 3) (tableFrame w)).toOption
  else if nbits = 8 then (decodePool (tableSelect w) (tableOperand w)).toOption
  else none

end Sys2Proof
end

