-- ==== Sys2Proof/Machine/Extension.lean ====
section
/-! DEFINITION. The extension port EXT (41_dispatch_and_reply.md R132 to R134). -/

namespace Sys2Proof.Machine

/-- A handler's `Done(clear, out, ext_state')` (R132). -/
def State.extFinish (s : State) (cmd : ExtCmd) (p : Byte) (r : ExtDone) : State :=
  let t := { s with
    respondSuppressed := if r.clear then false else s.respondSuppressed
    extState := r.extState }
  match r.out with
  | none => t
  | some out => t.reply cmd.byte p out.data

/-- `ExtCall(cmd, P, payload)` (R132). A pool call of the handler that never ends hangs the unit. -/
def State.extCall (s : State) (cmd : ExtCmd) (p : Byte) (payload : List Byte) : State :=
  match Config.extHandle s.drawIndex cmd p payload s.address s.extState with
  | .lengthError => s.countDraw.raise .lengthMismatch p
  | .run body =>
    let run := runExt body s.pool
    match run.result with
    | none => { s.countDraw.withPool run.pool with hung := true }
    | some r => (s.countDraw.withPool run.pool).extFinish cmd p r

/-- A parameter outside the core: its handler if it is mapped for the command, else UnknownParameter (R121, R122, R124). -/
def State.extOrUnknown (s : State) (cmd : ExtCmd) (p : Byte) (payload : List Byte) : State :=
  if Config.extMapped cmd p then s.extCall cmd p payload else s.raise .unknownParameter p

/-- Of the state `r` the port leaves, only what a handler may change is taken over (10_state.md R35). -/
def State.adoptExt (s r : State) : State :=
  { s with
    respondSuppressed := r.respondSuppressed
    acc := r.acc
    digest := r.digest
    extState := r.extState
    tx := r.tx
    drawIndex := r.drawIndex
    hung := r.hung }

/-- R132 for command 0x01. -/
def execRdExt (p : Byte) (payload : List Byte) (s : State) : Host.Outcome State Fault Refusal :=
  .next (s.adoptExt (s.extOrUnknown .read p payload))

/-- R132 for command 0x81. -/
def execWrExt (p : Byte) (payload : List Byte) (s : State) : Host.Outcome State Fault Refusal :=
  .next (s.adoptExt (s.extOrUnknown .write p payload))

end Sys2Proof.Machine
end

