-- ==== Sys2Proof/Machine/PoolPort.lean ====
section
/-! DEFINITION. The three pool operations as requests on the internal port (30_encoding.md R70, 44_entropy_pool.md). -/

namespace Sys2Proof.Machine

/-- FEED (R204). -/
def execFeed (bytes : List Byte) (s : State) : Host.Outcome State Fault Refusal :=
  .next (s.withPool (s.pool.feed bytes))

/-- READ_DIGEST (R206); the result stands in `digest`. -/
def execReadDigest (s : State) : Host.Outcome State Fault Refusal := .next (s.withPool s.pool.readDigest)

/-- BOUNDED_INTEGER (R210); the result stands in `poolResult`. Where the loop never ends the unit hangs (R212). -/
def execBoundedInteger (max : Byte) (s : State) : Host.Outcome State Fault Refusal :=
  .next { s with
    acc := (boundedInteger max s.pool).pool.acc
    digest := (boundedInteger max s.pool).pool.digest
    poolResult := (boundedInteger max s.pool).value.getD s.poolResult
    hung := s.hung || (boundedInteger max s.pool).value.isNone }

end Sys2Proof.Machine
end

