-- ==== Sys2Proof/Machine/Replies.lean ====
section
/-! DEFINITION. The nine emitted frames as operations: each hands its frame to the transport through the suppression
gate (41_dispatch_and_reply.md R125, 60_exceptions.md R236; log 11). -/

namespace Sys2Proof.Machine

/-- The success reply of RD_ADDR (42_address_register.md R150). -/
def execRplRdAddr (s : State) : Host.Outcome State Fault Refusal :=
  .next (s.reply Config.cmdRead Config.pAddress [s.address])

/-- The success reply of RD_SEARCH (43_arbitration.md R172). -/
def execRplRdSearch (s : State) : Host.Outcome State Fault Refusal :=
  .next (s.reply Config.cmdRead Config.pSearch [s.nextSlot])

/-- The success reply of an address write (41_dispatch_and_reply.md R129). -/
def execRplWrAddr (s : State) : Host.Outcome State Fault Refusal :=
  .next (s.reply Config.cmdWrite Config.pAddress [])

/-- The success reply of WR_SEARCH (41_dispatch_and_reply.md R129). -/
def execRplWrSearch (s : State) : Host.Outcome State Fault Refusal :=
  .next (s.reply Config.cmdWrite Config.pSearch [])

/-- The reply an extension handler asks for (41_dispatch_and_reply.md R132). -/
def execRplExt (cmd : ExtCmd) (p : Byte) (data : List Byte) (s : State) : Host.Outcome State Fault Refusal :=
  .next (s.reply cmd.byte p data)

/-- `raise FrameIntegrityError(0x00)` (60_exceptions.md R231). -/
def execErrBadChecksum (s : State) : Host.Outcome State Fault Refusal := .next (s.raise .frameIntegrity 0)

/-- `raise UnknownCommand(0x00)` (60_exceptions.md R230). -/
def execErrUnhandledCommand (s : State) : Host.Outcome State Fault Refusal := .next (s.raise .unknownCommand 0)

/-- `raise LengthMismatch(p)` (60_exceptions.md R230). -/
def execErrInvalidLength (p : Byte) (s : State) : Host.Outcome State Fault Refusal :=
  .next (s.raise .lengthMismatch p)

/-- `raise UnknownParameter(p)` (60_exceptions.md R230). -/
def execErrInvalidParameter (p : Byte) (s : State) : Host.Outcome State Fault Refusal :=
  .next (s.raise .unknownParameter p)

end Sys2Proof.Machine
end

