-- ==== Sys2Proof/Machine/Routing.lean ====
section
/-! DEFINITION. The operations that end in the routing itself: IGNORE_FOREIGN (40_frame_reception.md R98) and
ILL_CMD (41_dispatch_and_reply.md R123). -/

namespace Sys2Proof.Machine

/-- R98: reads and writes nothing, sends nothing, raises nothing. -/
def execIgnoreForeign (s : State) : Host.Outcome State Fault Refusal := .next s

/-- R123: `raise UnknownCommand(0x00)`; parameter and payload are not examined. -/
def execIllCmd (s : State) : Host.Outcome State Fault Refusal := .next (s.raise .unknownCommand 0)

end Sys2Proof.Machine
end

