-- ==== Sys2Proof/Machine/Search.lean ====
section
/-! DEFINITION. Parameter 0x08, the search register and arbitration (43_arbitration.md). -/

namespace Sys2Proof.Machine

/-- No valid carried-over slot: 0, or out of range of the round (R171). -/
def State.needsSlot (s : State) : Bool := decide (s.selectedSlot = 0) || decide (s.slotCount < s.selectedSlot)

/-- R171: start a round. -/
def execWrSearch (slots : Byte) (s : State) : Host.Outcome State Fault Refusal :=
  .next ((if (s.beginRound slots).needsSlot then (s.beginRound slots).takeSlot else s.beginRound slots).whenLive
    fun t => t.reply Config.cmdWrite Config.pSearch [])

/-- The collision observation of a unicast poll (R172). -/
def State.observePoll (s : State) (d : LocalDest) (probed : Byte) : State :=
  if d.cls = .unicast then s.usedInsert probed else s

/-- R172: slot poll. -/
def execRdSearch (d : LocalDest) (probed : Byte) (s : State) : Host.Outcome State Fault Refusal :=
  .next (if probed = s.selectedSlot then
    ((s.observePoll d probed).takeSlot).whenLive fun t =>
      t.clearSuppression.reply Config.cmdRead Config.pSearch [t.nextSlot]
  else s.observePoll d probed)

/-- R173: collision observation on a foreign frame. -/
def execSnoopSearch (v : Byte) (s : State) : Host.Outcome State Fault Refusal := .next (s.usedInsert v)

/-- R179: the gate of RD_SEARCH raises LengthMismatch. -/
def execIllLenRdSearch (s : State) : Host.Outcome State Fault Refusal :=
  .next (s.raise .lengthMismatch Config.pSearch)

/-- R179: the gate of WR_SEARCH raises LengthMismatch. -/
def execIllLenWrSearch (s : State) : Host.Outcome State Fault Refusal :=
  .next (s.raise .lengthMismatch Config.pSearch)

end Sys2Proof.Machine
end

