-- ==== Sys2Proof/Machine/Dispatch.lean ====
section
/-! DEFINITION. One arm per operation. -/

namespace Sys2Proof.Machine

open Sys2Proof

/-- The meaning of each operation. -/
def exec (i : Instr) (s : State) : Host.Outcome State Fault Refusal :=
  match i with
  | .snoopSearch _ v => Sys2Proof.Machine.execSnoopSearch v s
  | .ignoreForeign _ _ _ _ _ => Sys2Proof.Machine.execIgnoreForeign s
  | .rdAddr _ _ => Sys2Proof.Machine.execRdAddr s
  | .rdSearch d probed => Sys2Proof.Machine.execRdSearch d probed s
  | .illLenRdSearch _ _ => Sys2Proof.Machine.execIllLenRdSearch s
  | .rdExt _ p payload => Sys2Proof.Machine.execRdExt p payload s
  | .wrAddr1 _ new => Sys2Proof.Machine.execWrAddr1 new s
  | .wrAddr2 _ new slot => Sys2Proof.Machine.execWrAddr2 new slot s
  | .illLenWrAddr _ _ => Sys2Proof.Machine.execIllLenWrAddr s
  | .wrSearch _ slots => Sys2Proof.Machine.execWrSearch slots s
  | .illLenWrSearch _ _ => Sys2Proof.Machine.execIllLenWrSearch s
  | .wrExt _ p payload => Sys2Proof.Machine.execWrExt p payload s
  | .illCmd _ _ _ _ => Sys2Proof.Machine.execIllCmd s
  | .rplRdAddr => Sys2Proof.Machine.execRplRdAddr s
  | .rplRdSearch => Sys2Proof.Machine.execRplRdSearch s
  | .rplWrAddr => Sys2Proof.Machine.execRplWrAddr s
  | .rplWrSearch => Sys2Proof.Machine.execRplWrSearch s
  | .rplExt cmd p data => Sys2Proof.Machine.execRplExt cmd p data s
  | .errBadChecksum => Sys2Proof.Machine.execErrBadChecksum s
  | .errUnhandledCommand => Sys2Proof.Machine.execErrUnhandledCommand s
  | .errInvalidLength p => Sys2Proof.Machine.execErrInvalidLength p s
  | .errInvalidParameter p => Sys2Proof.Machine.execErrInvalidParameter p s
  | .feed bytes => Sys2Proof.Machine.execFeed bytes s
  | .readDigest => Sys2Proof.Machine.execReadDigest s
  | .boundedInteger max => Sys2Proof.Machine.execBoundedInteger max s

end Sys2Proof.Machine
end

