-- ==== Sys2Proof/Machine/Reception.lean ====
section
/-! DEFINITION. From input events to operations: HandleFrame, Drain, RxByte, RxFlush, Reset (40_frame_reception.md,
70_reset_and_hazards.md). -/

namespace Sys2Proof.Machine

/-- What follows the routed operation of a frame: the counter feed (40_frame_reception.md R97). -/
def closeFrame : Host.Outcome State Fault Refusal → Host.Outcome State Fault Refusal
  | .next s => .next s.counterFeed
  | .fault r => .fault r
  | .refused r => .refused r

/-- `HandleFrame(f)` (R97): assign the flag, run the operation the frame decodes to, feed the counter. A unicast frame
with a bad checksum raises FrameIntegrityError (R100), a broadcast one is dropped (R99); bytes that are no frame are
absorbed (60_exceptions.md R237). -/
def handleFrame (f : List Byte) (s : State) : Host.Outcome State Fault Refusal :=
  match decode s.address f with
  | .ok i => closeFrame (exec i (s.setSuppression (classify s.address (operandByte f 0))))
  | .error .badChecksumUnicast => closeFrame (exec .errBadChecksum (s.setSuppression .unicast))
  | .error .badChecksumBroadcast => closeFrame (.next (s.setSuppression .broadcast))
  | .error _ => .next s

/-- The length `n` of the frame at the front of `rxbuf` (R96). -/
def State.frontLength (s : State) : Nat := (declaredLength s.rxbuf).getD 0

/-- `Drain()` (R90): while a frame is complete, remove exactly its bytes and handle it. Each frame is at least 5 bytes, so
`rxlen` turns are enough. A unit that hangs in a frame takes no further one. -/
def drain : Nat → State → Host.Outcome State Fault Refusal
  | 0, s => .next s
  | fuel + 1, s =>
    if isFrameComplete s.rxbuf && !s.hung then
      match handleFrame (s.rxbuf.take s.frontLength) { s with rxbuf := s.rxbuf.drop s.frontLength } with
      | .next t => drain fuel t
      | .fault r => .fault r
      | .refused r => .refused r
    else .next s

/-- Appends `bs` to the accumulation buffer and drains it (R90, R103). -/
def receive (bs : List Byte) (s : State) : Host.Outcome State Fault Refusal :=
  drain (s.rxbuf.length + bs.length) { s with rxbuf := s.rxbuf ++ bs }

/-- An event handled by a unit that is not hung. -/
def handleLive (e : Event) (s : State) : Host.Outcome State Fault Refusal :=
  match e with
  | .rxByte b => if s.rxbuf.length < Config.rxbufCap then receive [b] s else .fault .rxbufOverflow
  | .rxBytes bs => receive bs s
  | .rxFlush => .next { s with rxbuf := [] }
  | .reset noise => .next (s.powerUp noise)

/-- An event handled by a hung unit: only power-up ends the hang, any other event is lost to it (44_entropy_pool.md R212;
log 2). -/
def handleHung (e : Event) (s : State) : Host.Outcome State Fault Refusal :=
  match e with
  | .rxByte _ => .next s
  | .rxBytes _ => .next s
  | .rxFlush => .next s
  | .reset noise => .next (s.powerUp noise)

/-- Serves a request on the pool port (30_encoding.md R70; log 9). -/
def servePool (r : PoolRequest) (s : State) : Host.Outcome State Fault Refusal :=
  match decodePool r.select r.operand with
  | .ok i => exec i s
  | .error _ => .refused .noPoolOperation

/-- Takes the oldest event and handles it to completion (20_memory.md R46); with no event the unit waits. -/
def takeEvent (s : State) : Host.Outcome State Fault Refusal :=
  match s.events with
  | [] => .next s
  | e :: rest =>
    if s.hung then handleHung e { s with events := rest } else handleLive e { s with events := rest }

/-- A request on the pool port is served before the next event; a hung unit serves none. -/
def nextAction (s : State) : Host.Outcome State Fault Refusal :=
  match s.port with
  | some r => if s.hung then takeEvent s else servePool r { s with port := none }
  | none => takeEvent s

/-- Places a frame so that the next step receives its last byte: all bytes but the last in `rxbuf`, the last as the next
event, the pool port empty, and the unit at the frame's destination unless that is the broadcast address (log 10). -/
def State.placeFrame (s : State) (f : List Byte) : State :=
  { s with
    address := if operandByte f 0 = Config.broadcast then s.address else operandByte f 0
    rxbuf := f.dropLast
    port := none
    events := .rxByte (f.getLastD 0) :: s.events
    hung := false }

/-- Places a pool request so that the next step serves it. -/
def State.placePool (s : State) (select : BitVec 2) (operand : List Byte) : State :=
  { s with port := some ⟨select, operand⟩, hung := false }

end Sys2Proof.Machine
end

