-- ==== Sys2Proof/Machine/Step.lean ====
section
/-! DEFINITION. One step of the unit, and how a table word is placed for it. -/

namespace Sys2Proof.Machine

/-- One step: one input event, handled to completion (20_memory.md R46), or one request on the pool port. -/
def step (s : State) : Host.Outcome State Fault Refusal := nextAction s

/-- Places the operation of a table word where the next step takes it (log 10). -/
def State.withFetchWord (s : State) (nbits w : Nat) : State :=
  if nbits = 8 then s.placePool (tableSelect w) (tableOperand w) else s.placeFrame (tableFrame w)

end Sys2Proof.Machine
end

