-- ==== Sys2Proof/Machine/Pseudocode.lean ====
section
/-! DEFINITION. The spec's own routing pseudocode (40_frame_reception.md R97, R98; 41_dispatch_and_reply.md R120 to R122,
R127; 42_address_register.md R150 to R152; 43_arbitration.md R171 to R173), written down beside the machine. The step does
not call it: a statement says that decoding a frame and running its operation does the same. -/

namespace Sys2Proof.Machine

/-- `WrAddr(payload)` (R151, R152), the gate first. -/
def State.pseudoWrAddr (s : State) (payload : List Byte) : State :=
  s.lengthGate Config.pAddress payload [1, 2] fun t =>
    if payload.length = 1 then
      (t.storeAddress (operandByte payload 0)).reply Config.cmdWrite Config.pAddress []
    else if operandByte payload 1 = t.selectedSlot then
      ((t.storeAddress (operandByte payload 0)).clearSuppression).reply Config.cmdWrite Config.pAddress []
    else t

/-- `WrSearch(payload)` (R171). -/
def State.pseudoWrSearch (s : State) (payload : List Byte) : State :=
  s.lengthGate Config.pSearch payload [1] fun t =>
    let u := { t with slotCount := operandByte payload 0, usedSlots := [] }
    let v := if u.selectedSlot = 0 ∨ u.slotCount < u.selectedSlot then u.takeSlot else u
    v.whenLive fun w => w.reply Config.cmdWrite Config.pSearch []

/-- `RdSearch(dest, payload)` (R172). -/
def State.pseudoRdSearch (s : State) (dest : DestClass) (payload : List Byte) : State :=
  s.lengthGate Config.pSearch payload [1] fun t =>
    let p := operandByte payload 0
    let u := if dest = .unicast then t.usedInsert p else t
    if p = u.selectedSlot then
      u.takeSlot.whenLive fun v => v.clearSuppression.reply Config.cmdRead Config.pSearch [v.nextSlot]
    else u

/-- `ExtCall` if mapped, else `raise UnknownParameter(P)` (R121, R122). -/
def State.pseudoExt (s : State) (cmd : ExtCmd) (p : Byte) (payload : List Byte) : State :=
  if Config.extMapped cmd p then s.extCall cmd p payload else s.raise .unknownParameter p

/-- `DispatchRead` (R121). -/
def State.pseudoDispatchRead (s : State) (dest : DestClass) (p : Byte) (payload : List Byte) : State :=
  if p = Config.pAddress then s.reply Config.cmdRead Config.pAddress [s.address]
  else if p = Config.pSearch then s.pseudoRdSearch dest payload
  else s.pseudoExt .read p payload

/-- `DispatchWrite` (R122). -/
def State.pseudoDispatchWrite (s : State) (p : Byte) (payload : List Byte) : State :=
  if p = Config.pAddress then s.pseudoWrAddr payload
  else if p = Config.pSearch then s.pseudoWrSearch payload
  else s.pseudoExt .write p payload

/-- `Dispatch` (R120). -/
def State.pseudoDispatch (s : State) (dest : DestClass) (c p : Byte) (payload : List Byte) : State :=
  if c = Config.cmdRead then s.pseudoDispatchRead dest p payload
  else if c = Config.cmdWrite then s.pseudoDispatchWrite p payload
  else s.raise .unknownCommand 0

/-- `RouteForeign` (R98). -/
def State.pseudoRouteForeign (s : State) (ok : Bool) (c p l : Byte) (payload : List Byte) : State :=
  if ok = true ∧ c = Config.cmdRead ∧ p = Config.pSearch ∧ l = 1 then s.usedInsert (operandByte payload 0) else s

/-- `HandleFrame(f)` (R97), `f` a complete frame of exactly `f[3] + 5` bytes. -/
def State.pseudoHandleFrame (s : State) (f : List Byte) : State :=
  let a := operandByte f 0
  let c := operandByte f 1
  let p := operandByte f 2
  let l := operandByte f 3
  let payload := (f.drop 4).take l.toNat
  let t := s.setSuppression (classify s.address a)
  State.counterFeed <|
    match classify s.address a with
    | .foreign => t.pseudoRouteForeign (checksumOk f) c p l payload
    | .broadcast => if checksumOk f then t.pseudoDispatch .broadcast c p payload else t
    | .unicast => if checksumOk f then t.pseudoDispatch .unicast c p payload else t.raise .frameIntegrity 0

end Sys2Proof.Machine
end

