-- ==== Sys2Proof/Safety.lean ====
section
/-! DEFINITION. The invariant of a run, and the words claims are stated in. -/

namespace Sys2Proof.Machine

/-- An emitted frame: exactly as long as its fourth byte declares, hence 5 to 260 bytes, and with a good checksum
(30_encoding.md R67, 10_state.md R31). -/
def frameGood (f : List Byte) : Bool := declaredLength f == some f.length && checksumOk f

/-- What holds after reset and after every event. The two clauses about slots and the open frame are about a unit that is
not hung: a hang ends no event. -/
structure State.Inv (s : State) : Prop where
  /-- 43_arbitration.md R177 (1). -/
  slotInRange : s.hung = false → s.selectedSlot = 0 ∨ s.selectedSlot ≤ s.slotCount
  /-- 43_arbitration.md R177 (2). -/
  slotAlias : s.nextSlot = s.selectedSlot
  /-- 43_arbitration.md R177 (3). -/
  usedFits : s.usedSlots.length ≤ Config.usedCap
  /-- 10_state.md R15: a set. -/
  usedSet : s.usedSlots.Nodup
  /-- 40_frame_reception.md R102: `rxbuf` holds an incomplete frame. -/
  frameOpen : s.hung = false → isFrameComplete s.rxbuf = false
  /-- The canonical form of the NVM. -/
  nvmCanonical : s.nvm.wf = true
  /-- 20_memory.md R45: register and NVM cell never differ. -/
  addressStored : s.nvm.read Config.addrNvmOffset = s.address
  /-- 10_state.md R19. -/
  digestLength : s.digest.length = Config.digestLen
  /-- 44_entropy_pool.md R217: no request waits on the pool port between events. -/
  portIdle : s.port = none
  /-- 10_state.md R31. -/
  sentGood : ∀ f ∈ s.tx, frameGood f = true

/-- The pool after `n` digests (44_entropy_pool.md R206). -/
def Pool.after : Nat → Pool → Pool
  | 0, q => q
  | n + 1, q => Pool.after n q.readDigest

/-- The pool after `n` slot draws (43_arbitration.md R175). -/
def Pool.afterSlots (slotCount : Byte) : Nat → Pool → Pool
  | 0, q => q
  | n + 1, q => Pool.afterSlots slotCount n (drawSlot slotCount q).pool

/-! ### Draws that never end (44_entropy_pool.md R212) -/

/-- `BoundedInteger(max)` on the pool `q` never ends. -/
def Endless (max : Byte) (q : Pool) : Prop :=
  max ≠ 0 ∧ ∀ n, scanDigest max (Pool.after n q).readDigest.digest = none

/-- The candidate of attempt `k` of a selection is a used slot, so that attempt `k + 1` follows (43_arbitration.md R176). -/
def AttemptFails (slotCount : Byte) (used : List Byte) (q : Pool) (k : Nat) : Prop :=
  ∃ c ∈ used, (drawSlot slotCount (Pool.afterSlots slotCount k q)).value = some c

/-- A selection reaches an attempt whose draw never ends. -/
def SelectionEndless (slotCount : Byte) (used : List Byte) (q : Pool) : Prop :=
  slotCount ≠ 0 ∧ ∃ k < Config.retryBound, (∀ j < k, AttemptFails slotCount used q j) ∧
    Endless (slotCount - 1) (Pool.afterSlots slotCount k q)

/-- An extension handler reaches a pool call that never ends (41_dispatch_and_reply.md R133). -/
def ExtEndless : ExtBody → Pool → Prop
  | .done _ _ _, _ => False
  | .feed bytes k, q => ExtEndless k (q.feed bytes)
  | .readDigest k, q => ExtEndless (k q.readDigest.digest) q.readDigest
  | .boundedInteger max k, q =>
    Endless max q ∨
      ∃ v, (boundedInteger max q).value = some v ∧ ExtEndless (k v) (boundedInteger max q).pool

/-- A mapped extension request in the state `s` reaches a pool call that never ends. -/
def State.extEndless (s : State) (cmd : ExtCmd) (p : Byte) (payload : List Byte) : Prop :=
  Config.extMapped cmd p = true ∧
    ∃ body, Config.extHandle s.drawIndex cmd p payload s.address s.extState = .run body ∧ ExtEndless body s.pool

/-- The operation, run in the state `s`, makes a draw that never ends. -/
def State.drawsEndlessly (s : State) : Instr → Prop
  | .wrSearch _ n => (s.selectedSlot = 0 ∨ n < s.selectedSlot) ∧ SelectionEndless n [] s.pool
  | .rdSearch d probed =>
    probed = s.selectedSlot ∧ SelectionEndless s.slotCount (s.observePoll d probed).usedSlots s.pool
  | .rdExt _ p payload => s.extEndless .read p payload
  | .wrExt _ p payload => s.extEndless .write p payload
  | .boundedInteger max => Endless max s.pool
  | .snoopSearch _ _ => False
  | .ignoreForeign _ _ _ _ _ => False
  | .rdAddr _ _ => False
  | .illLenRdSearch _ _ => False
  | .wrAddr1 _ _ => False
  | .wrAddr2 _ _ _ => False
  | .illLenWrAddr _ _ => False
  | .illLenWrSearch _ _ => False
  | .illCmd _ _ _ _ => False
  | .rplRdAddr => False
  | .rplRdSearch => False
  | .rplWrAddr => False
  | .rplWrSearch => False
  | .rplExt _ _ _ => False
  | .errBadChecksum => False
  | .errUnhandledCommand => False
  | .errInvalidLength _ => False
  | .errInvalidParameter _ => False
  | .feed _ => False
  | .readDigest => False

/-! ### The error a frame ends in (60_exceptions.md R230, R238) -/

/-- The error an extension request raises, if any (41_dispatch_and_reply.md R124, R132). -/
def State.extError (s : State) (cmd : ExtCmd) (p : Byte) (payload : List Byte) : Option (ErrorCause × Byte) :=
  if Config.extMapped cmd p then
    match Config.extHandle s.drawIndex cmd p payload s.address s.extState with
    | .lengthError => some (.lengthMismatch, p)
    | .run _ => none
  else some (.unknownParameter, p)

/-- The error an operation raises, if any, with the parameter byte of its reply. -/
def State.operationError (s : State) : Instr → Option (ErrorCause × Byte)
  | .illCmd _ _ _ _ => some (.unknownCommand, 0)
  | .illLenWrAddr _ _ => some (.lengthMismatch, 0x01)
  | .illLenRdSearch _ _ => some (.lengthMismatch, 0x08)
  | .illLenWrSearch _ _ => some (.lengthMismatch, 0x08)
  | .rdExt _ p payload => s.extError .read p payload
  | .wrExt _ p payload => s.extError .write p payload
  | .errBadChecksum => some (.frameIntegrity, 0)
  | .errUnhandledCommand => some (.unknownCommand, 0)
  | .errInvalidLength p => some (.lengthMismatch, p)
  | .errInvalidParameter p => some (.unknownParameter, p)
  | .snoopSearch _ _ => none
  | .ignoreForeign _ _ _ _ _ => none
  | .rdAddr _ _ => none
  | .rdSearch _ _ => none
  | .wrAddr1 _ _ => none
  | .wrAddr2 _ _ _ => none
  | .wrSearch _ _ => none
  | .rplRdAddr => none
  | .rplRdSearch => none
  | .rplWrAddr => none
  | .rplWrSearch => none
  | .rplExt _ _ _ => none
  | .feed _ => none
  | .readDigest => none
  | .boundedInteger _ => none

/-- The error the frame `f` ends in, if any. -/
def State.frameError (s : State) (f : List Byte) : Option (ErrorCause × Byte) :=
  match decode s.address f with
  | .ok i => s.operationError i
  | .error .badChecksumUnicast => some (.frameIntegrity, 0)
  | .error _ => none

/-- `HASH_PRODUCTIVE` (44_entropy_pool.md R212): from every state and for every `max >= 1`, some digest has an acceptable
byte. -/
def HashProductive : Prop :=
  ∀ (max : Byte) (q : Pool), max ≠ 0 → ∃ n, scanDigest max (Pool.after n q).readDigest.digest ≠ none

/-- Delivers bytes one at a time (40_frame_reception.md R90). -/
def receiveEach : List Byte → State → Host.Outcome State Fault Refusal
  | [], s => .next s
  | b :: bs, s =>
    match receive [b] s with
    | .next t => receiveEach bs t
    | .fault r => .fault r
    | .refused r => .refused r

end Sys2Proof.Machine
end

