-- ==== Sys2Proof/Certificates/Slice0/Obligations.lean ====
section
/-! DEFINITION. The statements for the provers. -/

open Sys2Proof Sys2Proof.Machine

/-! ## Encoding -/

/-- 30_encoding.md R60, R67, R70, R72: no operand of any operation is lost between its words and its decoding. -/
def Obligations.EncodeThenDecodeGivesTheOperation : Prop :=
  ∀ (address nextSlot : Byte) (i : Instr), i.wellFormed = true → i.fits address = true →
    decodeEncoded address nextSlot (encode address nextSlot i) = .ok i

/-- 30_encoding.md R60, R63, R72: a received frame has one meaning, and its bytes are the operation's words. -/
def Obligations.DecodedFrameEncodesBack : Prop :=
  ∀ (address nextSlot : Byte) (bytes : List Byte) (i : Instr), decode address bytes = .ok i →
    encode address nextSlot i = .request bytes ∧ i.wellFormed = true ∧ i.fits address = true

/-- Frames written out in 95_test_vectors.md sections 4 to 6, one for each request row, for a unit at 0x05. -/
def Obligations.SpecFramesDecodeAsListed : Prop :=
  decode 0x05 [0x06, 0x01, 0x08, 0x01, 0x04, 0x14] = .ok (.snoopSearch 0x06 0x04) ∧
  decode 0x05 [0x06, 0x02, 0x55, 0x00, 0x5D] = .ok (.ignoreForeign 0x06 0x02 0x55 [] 0x5D) ∧
  decode 0x05 [0x05, 0x01, 0x01, 0x02, 0xAA, 0xBB, 0x6E] = .ok (.rdAddr (.unicast 0x05) [0xAA, 0xBB]) ∧
  decode 0x05 [0xFF, 0x01, 0x08, 0x01, 0x04, 0x0D] = .ok (.rdSearch .broadcast 0x04) ∧
  decode 0x05 [0x05, 0x01, 0x08, 0x00, 0x0E] = .ok (.illLenRdSearch (.unicast 0x05) []) ∧
  decode 0x05 [0x05, 0x01, 0x10, 0x00, 0x16] = .ok (.rdExt (.unicast 0x05) 0x10 []) ∧
  decode 0x05 [0x05, 0x81, 0x01, 0x01, 0x09, 0x91] = .ok (.wrAddr1 (.unicast 0x05) 0x09) ∧
  decode 0x05 [0x05, 0x81, 0x01, 0x02, 0x21, 0x08, 0xB2] = .ok (.wrAddr2 (.unicast 0x05) 0x21 0x08) ∧
  decode 0x05 [0x05, 0x81, 0x01, 0x03, 0x01, 0x02, 0x03, 0x90] =
    .ok (.illLenWrAddr (.unicast 0x05) [0x01, 0x02, 0x03]) ∧
  decode 0x05 [0xFF, 0x81, 0x08, 0x01, 0x08, 0x91] = .ok (.wrSearch .broadcast 0x08) ∧
  decode 0x05 [0x05, 0x81, 0x08, 0x02, 0x04, 0x04, 0x98] = .ok (.illLenWrSearch (.unicast 0x05) [0x04, 0x04]) ∧
  decode 0x05 [0x05, 0x81, 0x10, 0x01, 0x77, 0x0E] = .ok (.wrExt (.unicast 0x05) 0x10 [0x77]) ∧
  decode 0x05 [0x05, 0xFF, 0x00, 0x00, 0x04] = .ok (.illCmd (.unicast 0x05) 0xFF 0x00 []) ∧
  decode 0x05 [0x05, 0x01, 0x01, 0x00, 0x08] = .error .badChecksumUnicast

/-- 30_encoding.md R72: for a frame with a good checksum the decoder takes the first row of the operation map that
matches the destination class and the header word. -/
def Obligations.DecodeTakesTheFirstMatchingRow : Prop :=
  ∀ (address a c p : Byte) (data : List Byte), data.length ≤ 255 →
    ∃ i, decode address (frameOf a c p data) = .ok i ∧
      i.requestRow =
        firstRow (decide (classify address a = .foreign)) (headerWord a c p (BitVec.ofNat 8 data.length))

/-- 30_encoding.md R70: select `11` is unused; a request that carries it is refused by name (log 9). -/
def Obligations.UnusedPoolSelectIsRefused : Prop :=
  ∀ (s : State) (operand : List Byte), s.hung = false → s.port = some ⟨3, operand⟩ →
    step s = .refused .noPoolOperation

/-! ## Reception -/

/-- 40_frame_reception.md R94: what `checksum_ok` compares, that a body with its checksum passes, that changing one bit of one
byte of a good frame, the checksum byte included, makes it fail, that changes to two bytes can cancel, and the rule's
example. -/
def Obligations.OneChangedBitFailsTheChecksum : Prop :=
  (∀ (body : List Byte) (ck : Byte), checksumOk (body ++ [ck]) = true ↔ ck = checksum body) ∧
  (∀ body : List Byte, checksumOk (body ++ [checksum body]) = true) ∧
  (∀ (f : List Byte) (idx k : Nat), checksumOk f = true → idx < f.length → k < 8 →
    checksumOk (f.modify idx fun b => b ^^^ ((1 : Byte) <<< k)) = false) ∧
  checksumOk [0x05, 0x01, 0x01, 0x00, 0x07] = true ∧ checksumOk [0x05, 0x01, 0x01, 0x00, 0x08] = false ∧
  checksumOk [0x06, 0x00, 0x01, 0x00, 0x07] = true

/-- 40_frame_reception.md R102, R90: with an incomplete frame in the buffer a received byte is always in range; it is only
stored, or it completes the frame, and then the whole buffer is the frame that is handled and the buffer is empty. -/
def Obligations.RxByteStoresOrHandlesTheWholeBuffer : Prop :=
  ∀ (s : State) (b : Byte) (rest : List Event), s.hung = false → s.port = none → isFrameComplete s.rxbuf = false →
    s.events = .rxByte b :: rest →
    s.rxlen ≤ 259 ∧
    (isFrameComplete (s.rxbuf ++ [b]) = true ↔ declaredLength (s.rxbuf ++ [b]) = some (s.rxlen + 1)) ∧
    step s =
      if isFrameComplete (s.rxbuf ++ [b]) then handleFrame (s.rxbuf ++ [b]) { s with events := rest, rxbuf := [] }
      else .next { s with events := rest, rxbuf := s.rxbuf ++ [b] }

/-- 40_frame_reception.md R103: one chunk and the same bytes one at a time lead to the same state (the model numbers its
draws, so even the counter samples agree; log 3). A run in which the unit hangs is left out (log 15). -/
def Obligations.ChunkedDeliveryEqualsByteDelivery : Prop :=
  ∀ (bs : List Byte) (s t : State), s.hung = false → isFrameComplete s.rxbuf = false →
    receiveEach bs s = .next t → t.hung = false → receive bs s = .next t

/-- 40_frame_reception.md R101: `RxFlush` empties the buffer and changes nothing else. -/
def Obligations.FlushOnlyEmptiesTheBuffer : Prop :=
  ∀ (s : State) (rest : List Event), s.hung = false → s.port = none → s.events = .rxFlush :: rest →
    step s = .next { s with events := rest, rxbuf := [] }

/-- 40_frame_reception.md R90, R97: the byte that completes a frame makes the step run the frame's operation, after the flag
is assigned and before the counter feed. That a request on the pool port is served by a step of its own, with no counter
feed, is the model's choice (log 9). -/
def Obligations.StepRunsTheDecodedOperation : Prop :=
  (∀ (s : State) (b : Byte) (rest : List Event) (i : Instr), s.hung = false → s.port = none →
    isFrameComplete s.rxbuf = false → s.events = .rxByte b :: rest → decode s.address (s.rxbuf ++ [b]) = .ok i →
    ∃ t, exec i { s with
        events := rest
        rxbuf := []
        respondSuppressed := decide (operandByte (s.rxbuf ++ [b]) 0 = 0xFF) } = .next t ∧
      step s = .next t.counterFeed) ∧
  (∀ (s : State) (r : PoolRequest) (i : Instr), s.hung = false → s.port = some r →
    decodePool r.select r.operand = .ok i → step s = exec i { s with port := none })

/-- 44_entropy_pool.md R214, 40_frame_reception.md R97: every complete frame, whatever its disposition, ends with one fresh
counter byte fed into the accumulator of the state `u` its operation leaves, and with nothing else; a unit that hangs in the
operation never gets there (log 2). Where the operation makes no draw of its own the counter byte is all that happens to the
pool (the draw number is the model's own, log 3). -/
def Obligations.EveryFrameEndsWithOneCounterFeed : Prop :=
  ∀ (f : List Byte) (s t : State), declaredLength f = some f.length → handleFrame f s = .next t →
    (∃ u : State,
      (∀ i, decode s.address f = .ok i →
        exec i { s with respondSuppressed := decide (operandByte f 0 = 0xFF) } = .next u) ∧
      (decode s.address f = .error .badChecksumUnicast →
        exec .errBadChecksum { s with respondSuppressed := decide (operandByte f 0 = 0xFF) } = .next u) ∧
      (decode s.address f = .error .badChecksumBroadcast →
        u = { s with respondSuppressed := decide (operandByte f 0 = 0xFF) }) ∧
      (u.hung = false →
        t = { u with
          acc := hashUpdate u.acc [Config.counterSample u.drawIndex]
          drawIndex := u.drawIndex + 1 }) ∧
      (u.hung = true → t = u)) ∧
    (s.hung = false →
      (∀ i, decode s.address f = .ok i →
        i.requestRow ≠ some .wrSearch ∧ i.requestRow ≠ some .rdSearch ∧ i.requestRow ≠ some .rdExt ∧
          i.requestRow ≠ some .wrExt) →
      t.acc = hashUpdate s.acc [Config.counterSample s.drawIndex] ∧ t.digest = s.digest ∧
        t.drawIndex = s.drawIndex + 1)

/-- 60_exceptions.md R231: a complete unicast frame with a bad checksum draws the "Bad checksum" reply, always transmitted,
and nothing else of it is looked at. -/
def Obligations.BadUnicastChecksumDrawsAReply : Prop :=
  ∀ (f : List Byte) (s : State), declaredLength f = some f.length → classify s.address (operandByte f 0) = .unicast →
    checksumOk f = false →
    handleFrame f s =
      .next ({ s with
        respondSuppressed := false
        tx := s.tx ++ [frameOf s.address 0xFF 0x00
          [0x42, 0x61, 0x64, 0x20, 0x63, 0x68, 0x65, 0x63, 0x6B, 0x73, 0x75, 0x6D]] } : State).counterFeed

/-- 40_frame_reception.md R98, R99: a broadcast or foreign frame with a bad checksum is dropped in silence. -/
def Obligations.BadBroadcastOrForeignChecksumIsDropped : Prop :=
  ∀ (f : List Byte) (s : State), declaredLength f = some f.length → classify s.address (operandByte f 0) ≠ .unicast →
    checksumOk f = false →
    handleFrame f s =
      .next ({ s with respondSuppressed := decide (operandByte f 0 = 0xFF) } : State).counterFeed

/-- 40_frame_reception.md R98: a foreign frame changes nothing but the set of used slots, and that only in the exact shape
of a search reply with a good checksum. -/
def Obligations.ForeignFrameOnlyEverSnoops : Prop :=
  ∀ (f : List Byte) (s t : State), classify s.address (operandByte f 0) = .foreign →
    declaredLength f = some f.length → handleFrame f s = .next t →
    t = ({ s with respondSuppressed := false, usedSlots := t.usedSlots } : State).counterFeed ∧
    (t.usedSlots ≠ s.usedSlots →
      ∃ a v, f = [a, 0x01, 0x08, 0x01, v, checksum [a, 0x01, 0x08, 0x01, v]] ∧ t.usedSlots = s.usedSlots ++ [v])

/-- 40_frame_reception.md R97, R98, 41_dispatch_and_reply.md R120 to R122, R127: decoding a frame and running its operation
does what the spec's routing pseudocode does. -/
def Obligations.HandleFrameFollowsTheRoutingPseudocode : Prop :=
  ∀ (f : List Byte) (s : State), declaredLength f = some f.length → handleFrame f s = .next (s.pseudoHandleFrame f)

/-- 20_memory.md R50: after a plain address write, unicast or broadcast, the very next frame is classified against the new
address. -/
def Obligations.AddressWriteReclassifiesTheNextFrame : Prop :=
  ∀ (s t : State) (new dest : Byte), new ≠ 0xFF → dest = s.address ∨ dest = 0xFF →
    handleFrame (frameOf dest 0x81 0x01 [new]) s = .next t →
    decode t.address (frameOf new 0x01 0x01 []) = .ok (.rdAddr (.unicast new) [])

/-! ## Replies and errors -/

/-- 41_dispatch_and_reply.md R125, R128, R129: each success reply goes out from the unit's own address, or not at all while
suppressed, and changes nothing else. -/
def Obligations.SuccessRepliesAreGatedAndAddressed : Prop :=
  ∀ s : State,
    exec .rplRdAddr s =
      .next { s with tx := if s.respondSuppressed then s.tx else s.tx ++ [frameOf s.address 0x01 0x01 [s.address]] } ∧
    exec .rplRdSearch s =
      .next { s with tx := if s.respondSuppressed then s.tx else s.tx ++ [frameOf s.address 0x01 0x08 [s.nextSlot]] } ∧
    exec .rplWrAddr s =
      .next { s with tx := if s.respondSuppressed then s.tx else s.tx ++ [frameOf s.address 0x81 0x01 []] } ∧
    exec .rplWrSearch s =
      .next { s with tx := if s.respondSuppressed then s.tx else s.tx ++ [frameOf s.address 0x81 0x08 []] } ∧
    ∀ (p : Byte) (data : List Byte),
      exec (.rplExt .read p data) s =
        .next { s with tx := if s.respondSuppressed then s.tx else s.tx ++ [frameOf s.address 0x01 p data] } ∧
      exec (.rplExt .write p data) s =
        .next { s with tx := if s.respondSuppressed then s.tx else s.tx ++ [frameOf s.address 0x81 p data] }

/-- 60_exceptions.md R230, R236: taking each of the four exceptions sends its text through the suppression gate and changes
nothing else. -/
def Obligations.ErrorRepliesCarryTheirReason : Prop :=
  ∀ (s : State) (p : Byte),
    exec .errBadChecksum s =
      .next { s with tx := if s.respondSuppressed then s.tx else s.tx ++ [frameOf s.address 0xFF 0x00
        [0x42, 0x61, 0x64, 0x20, 0x63, 0x68, 0x65, 0x63, 0x6B, 0x73, 0x75, 0x6D]] } ∧
    exec .errUnhandledCommand s =
      .next { s with tx := if s.respondSuppressed then s.tx else s.tx ++ [frameOf s.address 0xFF 0x00
        [0x55, 0x6E, 0x68, 0x61, 0x6E, 0x64, 0x6C, 0x65, 0x64, 0x20, 0x63, 0x6F, 0x6D, 0x6D, 0x61, 0x6E, 0x64]] } ∧
    exec (.errInvalidLength p) s =
      .next { s with tx := if s.respondSuppressed then s.tx else s.tx ++ [frameOf s.address 0xFF p
        [0x49, 0x6E, 0x76, 0x61, 0x6C, 0x69, 0x64, 0x20, 0x6C, 0x65, 0x6E, 0x67, 0x74, 0x68]] } ∧
    exec (.errInvalidParameter p) s =
      .next { s with tx := if s.respondSuppressed then s.tx else s.tx ++ [frameOf s.address 0xFF p
        [0x49, 0x6E, 0x76, 0x61, 0x6C, 0x69, 0x64, 0x20, 0x70, 0x61, 0x72, 0x61, 0x6D, 0x65, 0x74, 0x65, 0x72]] }

/-- 41_dispatch_and_reply.md R123, 42_address_register.md R153, 43_arbitration.md R179: the illegal encodings raise, whatever
the payload, and no register changes. -/
def Obligations.IllegalEncodingsRaise : Prop :=
  ∀ (s : State) (d : LocalDest) (c p : Byte) (payload : List Byte),
    exec (.illCmd d c p payload) s =
      .next { s with tx := if s.respondSuppressed then s.tx else s.tx ++ [frameOf s.address 0xFF 0x00
        [0x55, 0x6E, 0x68, 0x61, 0x6E, 0x64, 0x6C, 0x65, 0x64, 0x20, 0x63, 0x6F, 0x6D, 0x6D, 0x61, 0x6E, 0x64]] } ∧
    exec (.illLenWrAddr d payload) s =
      .next { s with tx := if s.respondSuppressed then s.tx else s.tx ++ [frameOf s.address 0xFF 0x01
        [0x49, 0x6E, 0x76, 0x61, 0x6C, 0x69, 0x64, 0x20, 0x6C, 0x65, 0x6E, 0x67, 0x74, 0x68]] } ∧
    exec (.illLenRdSearch d payload) s =
      .next { s with tx := if s.respondSuppressed then s.tx else s.tx ++ [frameOf s.address 0xFF 0x08
        [0x49, 0x6E, 0x76, 0x61, 0x6C, 0x69, 0x64, 0x20, 0x6C, 0x65, 0x6E, 0x67, 0x74, 0x68]] } ∧
    exec (.illLenWrSearch d payload) s =
      .next { s with tx := if s.respondSuppressed then s.tx else s.tx ++ [frameOf s.address 0xFF 0x08
        [0x49, 0x6E, 0x76, 0x61, 0x6C, 0x69, 0x64, 0x20, 0x6C, 0x65, 0x6E, 0x67, 0x74, 0x68]] }

/-- 20_memory.md R52, 60_exceptions.md R236, R241: a frame that ends in any of the four errors of R230 (a bad unicast checksum,
an unknown command, a parameter that is not mapped, a wrong length, an extension handler's included) sends the error's reply,
or on a broadcast nothing, and changes nothing else but the flag and, by the counter feed, the accumulator. An extension
handler's call counts as one draw (the model's own number, log 3). -/
def Obligations.ErroredFrameChangesNoRegister : Prop :=
  ∀ (f : List Byte) (s t : State) (e : ErrorCause) (p : Byte), s.frameError f = some (e, p) → handleFrame f s = .next t →
    ∃ k, (k = s.drawIndex ∨ k = s.drawIndex + 1) ∧
      t = ({ s with
        respondSuppressed := decide (operandByte f 0 = 0xFF)
        tx := if operandByte f 0 = 0xFF then s.tx else s.tx ++ [errorFrame s.address e p]
        drawIndex := k } : State).counterFeed

/-- 41_dispatch_and_reply.md R126, R128, 10_state.md R31: one handled frame emits at most one frame, and that one is whole,
has a good checksum, and begins with the unit's address at that moment. R126 derives this for the in-scope handlers; that an
extension handler sends at most one frame is the model's choice (log 6). -/
def Obligations.AtMostOneGoodFramePerFrame : Prop :=
  ∀ (f : List Byte) (s t : State), handleFrame f s = .next t →
    t.tx = s.tx ∨
      ∃ g, t.tx = s.tx ++ [g] ∧ g.length = (operandByte g 3).toNat + 5 ∧ checksumOk g = true ∧
        g.head? = some t.address

/-- 41_dispatch_and_reply.md R126: a broadcast frame draws a reply only through a slot-poll match, an address-promotion
match, or an extension handler, and only with suppression cleared. -/
def Obligations.BroadcastRepliesOnlyAfterOptOut : Prop :=
  ∀ (f : List Byte) (s t : State), operandByte f 0 = 0xFF → handleFrame f s = .next t → t.tx ≠ s.tx →
    t.respondSuppressed = false ∧
      (decode s.address f = .ok (.rdSearch .broadcast s.selectedSlot) ∨
       (∃ new, decode s.address f = .ok (.wrAddr2 .broadcast new s.selectedSlot)) ∨
       (∃ p payload, decode s.address f = .ok (.rdExt .broadcast p payload) ∨
         decode s.address f = .ok (.wrExt .broadcast p payload)))

/-! ## Address register -/

/-- 42_address_register.md R150: RD_ADDR answers the address, whatever its payload, and writes nothing. -/
def Obligations.ReadAddressRepliesTheAddress : Prop :=
  ∀ (d : LocalDest) (payload : List Byte) (s : State),
    exec (.rdAddr d payload) s =
      .next { s with tx := if s.respondSuppressed then s.tx
        else s.tx ++ [[s.address, 0x01, 0x01, 0x01, s.address, checksum [s.address, 0x01, 0x01, 0x01, s.address]]] }

/-- 42_address_register.md R151, R154: WR_ADDR1 stores the new address in the register and in its NVM cell, no other cell
changes, and the acknowledgement goes out from the new address unless suppressed. -/
def Obligations.WriteAddressStoresAndAcknowledges : Prop :=
  ∀ (d : LocalDest) (new : Byte) (s : State), s.nvm.wf = true →
    ∃ t, exec (.wrAddr1 d new) s = .next t ∧
      t = { s with
        address := new
        nvm := t.nvm
        tx := if s.respondSuppressed then s.tx
          else s.tx ++ [[new, 0x81, 0x01, 0x00, checksum [new, 0x81, 0x01, 0x00]]] } ∧
      ∀ off, t.nvm.read off = if off = Config.addrNvmOffset then new else s.nvm.read off

/-- 42_address_register.md R152, R154: a promotion whose slot is `selected_slot` is honoured and acknowledged from the new
address even on a broadcast; any other changes nothing and draws no reply. -/
def Obligations.PromotionIsHonouredOnlyOnMatch : Prop :=
  ∀ (d : LocalDest) (new slot : Byte) (s : State), s.nvm.wf = true →
    (slot = s.selectedSlot →
      ∃ t, exec (.wrAddr2 d new slot) s = .next t ∧
        t = { s with
          address := new
          nvm := t.nvm
          respondSuppressed := false
          tx := s.tx ++ [[new, 0x81, 0x01, 0x00, checksum [new, 0x81, 0x01, 0x00]]] } ∧
        ∀ off, t.nvm.read off = if off = Config.addrNvmOffset then new else s.nvm.read off) ∧
    (slot ≠ s.selectedSlot → exec (.wrAddr2 d new slot) s = .next s)

/-- 20_memory.md R42: no step, whatever the event, changes an NVM cell other than that of the address. -/
def Obligations.NvmChangesOnlyAtTheAddressOffset : Prop :=
  ∀ (s t : State), step s = .next t → ∀ off, off ≠ Config.addrNvmOffset → t.nvm.read off = s.nvm.read off

/-! ## Search and arbitration -/

/-- 43_arbitration.md R173, R174: SNOOP_SEARCH records the advertised slot if it is new and there is room, and does nothing
else. -/
def Obligations.SnoopRecordsTheAdvertisedSlot : Prop :=
  ∀ (a v : Byte) (s : State),
    (v ∈ s.usedSlots → exec (.snoopSearch a v) s = .next s) ∧
    (v ∉ s.usedSlots → s.usedSlots.length < Config.usedCap →
      exec (.snoopSearch a v) s = .next { s with usedSlots := s.usedSlots ++ [v] }) ∧
    (v ∉ s.usedSlots → Config.usedCap ≤ s.usedSlots.length → exec (.snoopSearch a v) s = .next s)

/-- 40_frame_reception.md R98: IGNORE_FOREIGN has no effect, and the frame it stands for has none but the flag and the counter
feed. -/
def Obligations.IgnoredForeignFrameHasNoEffect : Prop :=
  ∀ (a c p : Byte) (payload : List Byte) (ck : Byte) (s : State),
    exec (.ignoreForeign a c p payload ck) s = .next s ∧
    ((Instr.ignoreForeign a c p payload ck).wellFormed = true → a ≠ s.address →
      handleFrame (frameBody a c p payload ++ [ck]) s = .next ({ s with respondSuppressed := false } : State).counterFeed)

/-- 43_arbitration.md R171: a start of round that finds a valid carried-over slot keeps it and draws nothing. -/
def Obligations.StartRoundKeepsAValidSlot : Prop :=
  ∀ (d : LocalDest) (n : Byte) (s : State), s.hung = false → s.selectedSlot ≠ 0 → s.selectedSlot ≤ n →
    exec (.wrSearch d n) s =
      .next { s with
        slotCount := n
        usedSlots := []
        tx := if s.respondSuppressed then s.tx else s.tx ++ [frameOf s.address 0x81 0x08 []] }

/-- 43_arbitration.md R171, R176, 44_entropy_pool.md R212: without a valid carried-over slot a start of round selects one with
an empty set of used slots, and acknowledges unless suppressed; where the draw never ends the unit hangs with the slot
registers as they were and sends nothing (log 2). -/
def Obligations.StartRoundSelectsASlot : Prop :=
  ∀ (d : LocalDest) (n : Byte) (s : State), s.hung = false → s.selectedSlot = 0 ∨ n < s.selectedSlot →
    exec (.wrSearch d n) s =
      .next { s with
        slotCount := n
        usedSlots := []
        selectedSlot := (selectSlot n [] s.pool).value.getD s.selectedSlot
        nextSlot := (selectSlot n [] s.pool).value.getD s.nextSlot
        acc := (selectSlot n [] s.pool).pool.acc
        digest := (selectSlot n [] s.pool).pool.digest
        hung := (selectSlot n [] s.pool).value.isNone
        tx := if s.respondSuppressed || (selectSlot n [] s.pool).value.isNone then s.tx
          else s.tx ++ [frameOf s.address 0x81 0x08 []] }

/-- 43_arbitration.md R172: a poll of another slot draws no reply; a unicast one is recorded as an observation, a broadcast
one changes nothing. -/
def Obligations.UnmatchedPollIsSilent : Prop :=
  ∀ (a probed : Byte) (s : State), probed ≠ s.selectedSlot →
    exec (.rdSearch .broadcast probed) s = .next s ∧
    exec (.rdSearch (.unicast a) probed) s =
      .next { s with usedSlots :=
        if probed ∈ s.usedSlots ∨ Config.usedCap ≤ s.usedSlots.length then s.usedSlots else s.usedSlots ++ [probed] }

/-- 43_arbitration.md R172, 44_entropy_pool.md R212: a poll of the unit's own slot redraws it, avoiding the used slots, a
unicast poll's own slot among them, clears suppression and answers the new slot; where the draw never ends the unit hangs
and sends nothing (log 2). -/
def Obligations.MatchedPollRedrawsAndReplies : Prop :=
  ∀ (d : LocalDest) (s u : State) (r : Draw), s.hung = false →
    u = (if d = .broadcast then s else s.usedInsert s.selectedSlot) → r = selectSlot s.slotCount u.usedSlots s.pool →
    exec (.rdSearch d s.selectedSlot) s =
      .next { s with
        usedSlots := u.usedSlots
        selectedSlot := r.value.getD s.selectedSlot
        nextSlot := r.value.getD s.nextSlot
        acc := r.pool.acc
        digest := r.pool.digest
        hung := r.value.isNone
        respondSuppressed := if r.value.isNone then s.respondSuppressed else false
        tx := if r.value.isNone then s.tx else s.tx ++ [frameOf s.address 0x01 0x08 [r.value.getD s.nextSlot]] }

/-- 43_arbitration.md R176: what a selection gives is the sentinel 0, or a slot of the round that is not in the used set. -/
def Obligations.SelectedSlotIsFreeAndInRange : Prop :=
  ∀ (n : Byte) (used : List Byte) (q : Pool) (v : Byte), (selectSlot n used q).value = some v →
    v = 0 ∨ (1 ≤ v ∧ v ≤ n ∧ v ∉ used)

/-- 43_arbitration.md R176: "Exhaustion is certain when every value `1 .. slot_count` is in `used_slots`". -/
def Obligations.FullSetExhaustsTheSelection : Prop :=
  ∀ (n : Byte) (used : List Byte) (q : Pool), (∀ v : Byte, 1 ≤ v → v ≤ n → v ∈ used) →
    ∀ v, (selectSlot n used q).value = some v → v = 0

/-- 43_arbitration.md R171, R175: with no slot used, the first candidate is taken. A candidate is 1 plus a bounded draw up to
`slot_count - 1`, with the pool that draw leaves: 1 without a digest for a round of one slot, else 1 plus the first acceptable
byte of the first digest that has one, or none where no digest ever has one; and it lies in `1 .. slot_count`. -/
def Obligations.FreshRoundTakesTheFirstCandidate : Prop :=
  ∀ (n : Byte) (q : Pool), n ≠ 0 →
    selectSlot n [] q = drawSlot n q ∧
    drawSlot n q = ⟨(boundedInteger (n - 1) q).value.map (1 + ·), (boundedInteger (n - 1) q).pool⟩ ∧
    (n = 1 → drawSlot n q = ⟨some 1, q⟩) ∧
    (n ≠ 1 → ((drawSlot n q).value = none ∧ Endless (n - 1) q) ∨
      ∃ m c, (∀ j, j < m → scanDigest (n - 1) (Pool.after j q).readDigest.digest = none) ∧
        scanDigest (n - 1) (Pool.after m q).readDigest.digest = some c ∧
        drawSlot n q = ⟨some (1 + c), (Pool.after m q).readDigest⟩) ∧
    ∀ v, (drawSlot n q).value = some v → 1 ≤ v ∧ v ≤ n

/-- 43_arbitration.md R176, R178: a selection takes the first candidate, of at most RETRY_BOUND, that is not a used slot, each
candidate drawn from the pool the one before it left; after RETRY_BOUND used ones it gives 0 with the pool the last one left;
it never ends exactly if one of its draws does not; and with no slots it gives 0 and draws nothing. -/
def Obligations.SelectionTakesTheFirstFreeCandidate : Prop :=
  ∀ (n : Byte) (used : List Byte) (q : Pool),
    (n = 0 → selectSlot n used q = ⟨some 0, q⟩) ∧
    (n ≠ 0 → ∀ (k : Nat) (v : Byte), k < Config.retryBound → (∀ j, j < k → AttemptFails n used q j) →
      (drawSlot n (Pool.afterSlots n k q)).value = some v → v ∉ used →
      selectSlot n used q = drawSlot n (Pool.afterSlots n k q)) ∧
    (n ≠ 0 → (∀ j, j < Config.retryBound → AttemptFails n used q j) →
      selectSlot n used q = ⟨some 0, Pool.afterSlots n Config.retryBound q⟩) ∧
    ((selectSlot n used q).value = none ↔ SelectionEndless n used q)

/-! ## Extension port -/

/-- 41_dispatch_and_reply.md R121, R122, R124, R132: an extension request that is not mapped raises UnknownParameter; a mapped
one does what its handler's result says, its pool calls made in order; where one of them never ends the unit hangs (log 2).
The draw number is the model's own (log 3). -/
def Obligations.ExtensionRequestsFollowTheirHandler : Prop :=
  ∀ (d : LocalDest) (cmd : ExtCmd) (p : Byte) (payload : List Byte) (s : State),
    exec (match cmd with | .read => .rdExt d p payload | .write => .wrExt d p payload) s =
      .next (
        if Config.extMapped cmd p = false then s.raise .unknownParameter p
        else match Config.extHandle s.drawIndex cmd p payload s.address s.extState with
          | .lengthError => ({ s with drawIndex := s.drawIndex + 1 } : State).raise .lengthMismatch p
          | .run body =>
            match (runExt body s.pool).result with
            | none => { s with
                drawIndex := s.drawIndex + 1
                acc := (runExt body s.pool).pool.acc
                digest := (runExt body s.pool).pool.digest
                hung := true }
            | some r => { s with
                drawIndex := s.drawIndex + 1
                acc := (runExt body s.pool).pool.acc
                digest := (runExt body s.pool).pool.digest
                extState := r.extState
                respondSuppressed := s.respondSuppressed && !r.clear
                tx :=
                  match r.out with
                  | none => s.tx
                  | some out =>
                    if s.respondSuppressed && !r.clear then s.tx
                    else s.tx ++ [frameOf s.address (match cmd with | .read => 0x01 | .write => 0x81) p out.data] })

/-- 10_state.md R35: an extension request writes no register of the core, and can only clear the flag. -/
def Obligations.ExtensionKeepsTheCoreState : Prop :=
  ∀ (d : LocalDest) (p : Byte) (payload : List Byte) (s t : State),
    exec (.rdExt d p payload) s = .next t ∨ exec (.wrExt d p payload) s = .next t →
    t.address = s.address ∧ t.slotCount = s.slotCount ∧ t.selectedSlot = s.selectedSlot ∧ t.nextSlot = s.nextSlot ∧
    t.usedSlots = s.usedSlots ∧ t.rxbuf = s.rxbuf ∧ t.nvm = s.nvm ∧
    (t.respondSuppressed = s.respondSuppressed ∨ t.respondSuppressed = false)

/-! ## Entropy pool -/

/-- 44_entropy_pool.md R204, R201: FEED folds its bytes into the accumulator and writes nothing else; feeding in two calls is
feeding once; feeding nothing changes nothing. -/
def Obligations.FeedFoldsItsBytes : Prop :=
  ∀ (a b : List Byte) (s : State),
    exec (.feed a) s = .next { s with acc := hashUpdate s.acc a } ∧
    hashUpdate (hashUpdate s.acc a) b = hashUpdate s.acc (a ++ b) ∧
    exec (.feed []) s = .next s

/-- 44_entropy_pool.md R206: READ_DIGEST gives the digest of the accumulator and feeds it back in. -/
def Obligations.ReadDigestFeedsTheDigestBack : Prop :=
  ∀ s : State,
    exec .readDigest s =
      .next { s with digest := hashFinal s.acc, acc := hashUpdate s.acc (hashFinal s.acc) } ∧
    (hashFinal s.acc).length = Config.digestLen ∧ 1 ≤ Config.digestLen

/-- 44_entropy_pool.md R208: the mask is the smallest `2^k - 1` that is at least `max`. -/
def Obligations.MaskIsTheSmallestCover : Prop :=
  ∀ max : Byte, max ≠ 0 →
    ∃ k, (maskFor max).toNat = 2 ^ k - 1 ∧ max ≤ maskFor max ∧ ∀ j, max.toNat ≤ 2 ^ j - 1 → k ≤ j

/-- 44_entropy_pool.md R210: BOUNDED_INTEGER of 0 draws nothing; otherwise its result is the first acceptable byte of the first
digest that has one, that digest being the last one read; and where no digest ever has one the unit hangs (R212, log 2). The
result stands in the model's own `poolResult` (log 9). -/
def Obligations.BoundedIntegerTakesTheFirstAcceptableByte : Prop :=
  ∀ (max : Byte) (s : State), s.hung = false →
    (max = 0 → exec (.boundedInteger max) s = .next { s with poolResult := 0 }) ∧
    (max ≠ 0 → ∀ (n : Nat) (c : Byte),
      (∀ m, m < n → scanDigest max (Pool.after m s.pool).readDigest.digest = none) →
      scanDigest max (Pool.after n s.pool).readDigest.digest = some c →
      exec (.boundedInteger max) s =
        .next { s with
          poolResult := c
          acc := (Pool.after n s.pool).readDigest.acc
          digest := (Pool.after n s.pool).readDigest.digest } ∧ c ≤ max) ∧
    ∃ t, exec (.boundedInteger max) s = .next t ∧
      (t.hung = true ↔ max ≠ 0 ∧ ∀ n, scanDigest max (Pool.after n s.pool).readDigest.digest = none)

/-- 44_entropy_pool.md R212: the loop ends for every `max` and every state of the pool exactly if HASH is productive. -/
def Obligations.ProductiveHashMeansEveryDrawEnds : Prop :=
  HashProductive ↔ ∀ (max : Byte) (q : Pool), (boundedInteger max q).value ≠ none

/-- 44_entropy_pool.md R212, 00_scope.md section 5: "The only way to hang" is a draw no digest ever satisfies. An operation
hangs the unit exactly if one of the draws it makes itself never ends; and a step that hangs the unit runs such an operation:
the one on the pool port, or that of a frame `f` among the received bytes, in the state the bytes before it led to (that a
hang is a next state with the flag `hung` is the model's choice, log 2). -/
def Obligations.OnlyAnEndlessDrawHangsTheUnit : Prop :=
  (∀ (i : Instr) (s t : State), s.hung = false → exec i s = .next t → (t.hung = true ↔ s.drawsEndlessly i)) ∧
  (∀ (s t : State), s.hung = false → step s = .next t →
    t.hung = false ∨
    (∃ r i, s.port = some r ∧ decodePool r.select r.operand = .ok i ∧ s.drawsEndlessly i) ∨
    ∃ (e : Event) (rest : List Event) (bs before f after : List Byte) (u : State) (i : Instr),
      s.port = none ∧ s.events = e :: rest ∧ (e = .rxBytes bs ∨ ∃ b, e = .rxByte b ∧ bs = [b]) ∧
      s.rxbuf ++ bs = before ++ f ++ after ∧
      receive before { s with events := rest, rxbuf := [] } = .next u ∧ u.rxbuf = [] ∧ u.hung = false ∧
      decode u.address f = .ok i ∧ u.drawsEndlessly i)

/-- 44_entropy_pool.md R217: the accumulator is fed by the handling of complete frames and by power-up alone: with the pool
port empty, as it is between events, a step that changes it takes a power-up or received bytes that complete a frame, and
the port is empty afterwards (that the port is a field of the state is the model's choice, log 9). -/
def Obligations.OnlyFramesAndPowerUpFeedThePool : Prop :=
  ∀ (s t : State), s.port = none → step s = .next t →
    t.port = none ∧
    (t.acc = s.acc ∨
      (∃ noise rest, s.events = .reset noise :: rest) ∨
      ∃ e rest bs, s.events = e :: rest ∧ (e = .rxBytes bs ∨ ∃ b, e = .rxByte b ∧ bs = [b]) ∧
        isFrameComplete (s.rxbuf ++ bs) = true)

/-- 44_entropy_pool.md R217, R214, R206: a frame that is no mapped extension request feeds the pool some digests of its own
draws and then one counter byte; no byte of the frame, no address and no slot is fed. A unit that hangs never gets to the
counter byte (log 2). -/
def Obligations.FramesFeedOnlyDigestsAndTheCounter : Prop :=
  ∀ (f : List Byte) (s t : State), s.hung = false → declaredLength f = some f.length →
    (∀ d p payload, decode s.address f = .ok (.rdExt d p payload) → Config.extMapped .read p = false) →
    (∀ d p payload, decode s.address f = .ok (.wrExt d p payload) → Config.extMapped .write p = false) →
    handleFrame f s = .next t →
    ∃ n, t.acc =
      if t.hung then (Pool.after n s.pool).acc
      else hashUpdate (Pool.after n s.pool).acc [Config.counterSample s.drawIndex]

/-- 44_entropy_pool.md R212: a hung unit stays as it is whatever arrives, and power-up alone ends the hang (that the events
are lost to it is the model's choice, log 2). -/
def Obligations.HungUnitWaitsForPowerUp : Prop :=
  ∀ (s : State) (e : Event) (rest : List Event), s.hung = true → s.events = e :: rest →
    ((∀ noise, e ≠ .reset noise) → step s = .next { s with events := rest }) ∧
    ∀ noise, e = .reset noise → ∃ t, step s = .next t ∧ t.hung = false ∧ t.rxbuf = [] ∧ t.nvm = s.nvm

/-! ## Reset and invariants -/

/-- 70_reset_and_hazards.md R270, 10_state.md R36: power-up loads the address from the NVM, empties buffer and arbitration
state, clears the flag, seeds the pool from the noise and the stored block, writes no NVM cell and sends nothing. -/
def Obligations.PowerUpReachesTheResetValues : Prop :=
  ∀ (s : State) (noise : Vector Byte Config.nNoiseBytes) (rest : List Event), s.port = none →
    s.events = .reset noise :: rest →
    ∃ t, step s = .next t ∧ t.events = rest ∧
      t.address = s.nvm.read Config.addrNvmOffset ∧ t.slotCount = 0 ∧ t.selectedSlot = 0 ∧ t.nextSlot = 0 ∧
      t.usedSlots = [] ∧ t.rxlen = 0 ∧ t.respondSuppressed = false ∧
      t.acc = hashUpdate Config.hashInit
        (noise.toList ++ (List.range Config.seedNvmLen).map fun i => s.nvm.read (Config.seedNvmBase + i)) ∧
      t.nvm = s.nvm ∧ t.tx = s.tx

/-- 10_state.md R36: the values of State.reset that the spec gives. -/
def Obligations.ResetStateHoldsTheResetValues : Prop :=
  State.reset.address = State.reset.nvm.read Config.addrNvmOffset ∧ State.reset.slotCount = 0 ∧
  State.reset.selectedSlot = 0 ∧ State.reset.nextSlot = 0 ∧ State.reset.usedSlots = [] ∧ State.reset.rxlen = 0 ∧
  State.reset.respondSuppressed = false ∧
  ∃ noise : Vector Byte Config.nNoiseBytes,
    State.reset.acc = hashUpdate (hashUpdate Config.hashInit noise.toList)
      ((List.range Config.seedNvmLen).map fun i => State.reset.nvm.read (Config.seedNvmBase + i))

/-- The state after reset meets the invariant. -/
def Obligations.ResetMeetsTheInvariant : Prop := State.reset.Inv

/-- 43_arbitration.md R177, 40_frame_reception.md R102, 20_memory.md R45, 10_state.md R15, R31: every step from a state that
meets the invariant leads to one that meets it. -/
def Obligations.StepKeepsTheInvariant : Prop :=
  ∀ (s t : State), s.Inv → step s = .next t → t.Inv

/-- 10_state.md R11 to R17, 44_entropy_pool.md R217: each register is written only by the operations the spec names. -/
def Obligations.RegistersChangeOnlyByTheirWriters : Prop :=
  ∀ (i : Instr) (s t : State), exec i s = .next t →
    (t.address ≠ s.address ∨ t.nvm ≠ s.nvm →
      i.requestRow = some .wrAddr1 ∨ i.requestRow = some .wrAddr2) ∧
    (t.slotCount ≠ s.slotCount → i.requestRow = some .wrSearch) ∧
    (t.selectedSlot ≠ s.selectedSlot ∨ t.nextSlot ≠ s.nextSlot →
      i.requestRow = some .wrSearch ∨ i.requestRow = some .rdSearch) ∧
    (t.usedSlots ≠ s.usedSlots →
      i.requestRow = some .wrSearch ∨ i.requestRow = some .rdSearch ∨ i.requestRow = some .snoopSearch) ∧
    (t.respondSuppressed ≠ s.respondSuppressed → t.respondSuppressed = false ∧
      (i.requestRow = some .rdSearch ∨ i.requestRow = some .wrAddr2 ∨ i.requestRow = some .rdExt ∨
        i.requestRow = some .wrExt)) ∧
    (t.acc ≠ s.acc ∨ t.digest ≠ s.digest →
      i.requestRow = some .wrSearch ∨ i.requestRow = some .rdSearch ∨ i.requestRow = some .rdExt ∨
        i.requestRow = some .wrExt ∨ (∃ bytes, i = .feed bytes) ∨ i = .readDigest ∨ ∃ max, i = .boundedInteger max) ∧
    t.rxbuf = s.rxbuf ∧ t.events = s.events ∧ t.port = s.port
end

