-- ==== Sys2Proof/Laws/Pool.lean ====
section
/-! SUPPORT. The entropy pool and the slot draws: one lemma per function that says what it can give. -/

namespace Sys2Proof.Machine

/-- The law of 44_entropy_pool.md R201. -/
theorem hashUpdate_append (h : Config.HashState) (a b : List Byte) :
    hashUpdate h (a ++ b) = hashUpdate (hashUpdate h a) b := List.foldl_append

theorem hashUpdate_nil (h : Config.HashState) : hashUpdate h [] = h := rfl

theorem length_hashFinal (h : Config.HashState) : (hashFinal h).length = Config.digestLen := by simp [hashFinal]

@[simp] theorem Pool.feed_digest (q : Pool) (bytes : List Byte) : (q.feed bytes).digest = q.digest := rfl

@[simp] theorem Pool.feed_acc (q : Pool) (bytes : List Byte) : (q.feed bytes).acc = hashUpdate q.acc bytes := rfl

@[simp] theorem Pool.readDigest_digest (q : Pool) : q.readDigest.digest = hashFinal q.acc := rfl

@[simp] theorem Pool.readDigest_acc (q : Pool) : q.readDigest.acc = hashUpdate q.acc (hashFinal q.acc) := rfl

/-- What a scan accepts is a masked byte of the digest and at most `max`. -/
theorem scanDigest_some {max c : Byte} {d : List Byte} (h : scanDigest max d = some c) :
    c ≤ max ∧ ∃ b ∈ d, c = b &&& maskFor max := by
  induction d with
  | nil => simp [scanDigest] at h
  | cons b d ih =>
    simp only [scanDigest] at h
    split at h
    · cases h; exact ⟨‹_›, b, by simp, rfl⟩
    · obtain ⟨h1, b', h2, h3⟩ := ih h; exact ⟨h1, b', by simp [h2], h3⟩

/-- A scan that accepts nothing has every masked byte above `max`. -/
theorem scanDigest_none {max : Byte} {d : List Byte} :
    scanDigest max d = none ↔ ∀ b ∈ d, ¬ b &&& maskFor max ≤ max := by
  induction d with
  | nil => simp [scanDigest]
  | cons b d ih =>
    simp only [scanDigest]
    split
    · simp_all
    · simp_all

/-- A draw keeps the digest's length, if it draws at all. -/
theorem drawLoop_digest (max : Byte) (fuel : Nat) (q : Pool) :
    (drawLoop max fuel q).pool = q ∨ (drawLoop max fuel q).pool.digest.length = Config.digestLen := by
  induction fuel generalizing q with
  | zero => exact .inl rfl
  | succ n ih =>
    simp only [drawLoop]
    split
    · exact .inr (length_hashFinal _)
    · rcases ih q.readDigest with h | h
      · right; rw [h]; exact length_hashFinal _
      · exact .inr h

theorem drawLoop_le {max c : Byte} {fuel : Nat} {q : Pool} (h : (drawLoop max fuel q).value = some c) : c ≤ max := by
  induction fuel generalizing q with
  | zero => simp [drawLoop] at h
  | succ n ih =>
    simp only [drawLoop] at h
    split at h
    · rename_i c' hc
      cases h
      exact (scanDigest_some hc).1
    · exact ih h

/-- `BoundedInteger(0)` reads no digest (R210). -/
theorem boundedInteger_zero (q : Pool) : boundedInteger 0 q = ⟨some 0, q⟩ := rfl

theorem boundedInteger_digest (max : Byte) (q : Pool) :
    (boundedInteger max q).pool = q ∨ (boundedInteger max q).pool.digest.length = Config.digestLen := by
  unfold boundedInteger
  split
  · exact .inl rfl
  · exact drawLoop_digest max _ q

/-- With one slot there is nothing to draw (43_arbitration.md R175). -/
theorem drawSlot_one (q : Pool) : drawSlot 1 q = ⟨some 1, q⟩ := rfl

theorem drawSlot_digest (n : Byte) (q : Pool) :
    (drawSlot n q).pool = q ∨ (drawSlot n q).pool.digest.length = Config.digestLen := boundedInteger_digest _ q

theorem selectLoop_digest (n : Byte) (used : List Byte) (tries : Nat) (q : Pool) :
    (selectLoop n used tries q).pool = q ∨ (selectLoop n used tries q).pool.digest.length = Config.digestLen := by
  induction tries generalizing q with
  | zero => exact .inl rfl
  | succ k ih =>
    simp only [selectLoop]
    split
    · exact drawSlot_digest n q
    · split
      · rcases ih (drawSlot n q).pool with h | h
        · rw [h]; exact drawSlot_digest n q
        · exact .inr h
      · exact drawSlot_digest n q

theorem selectSlot_digest (n : Byte) (used : List Byte) (q : Pool) :
    (selectSlot n used q).pool = q ∨ (selectSlot n used q).pool.digest.length = Config.digestLen := by
  unfold selectSlot
  split
  · exact .inl rfl
  · exact selectLoop_digest n used _ q

/-- `slot_count = 0` gives the sentinel and consumes nothing (43_arbitration.md R176). -/
theorem selectSlot_zero (used : List Byte) (q : Pool) : selectSlot 0 used q = ⟨some 0, q⟩ := rfl

theorem runExt_digest (body : ExtBody) (q : Pool) (h : q.digest.length = Config.digestLen) :
    (runExt body q).pool.digest.length = Config.digestLen := by
  induction body generalizing q with
  | done clear out ext => exact h
  | feed bytes k ih => exact ih _ h
  | readDigest k ih => exact ih _ _ (length_hashFinal _)
  | boundedInteger max k ih =>
    have hq : (boundedInteger max q).pool.digest.length = Config.digestLen := by
      rcases boundedInteger_digest max q with e | e
      · rw [e]; exact h
      · exact e
    simp only [runExt]
    split
    · exact hq
    · exact ih _ _ hq

end Sys2Proof.Machine
end

