-- ==== Sys2Proof/Laws/Draws.lean ====
section
/-! SUPPORT. Bounded draws digest by digest: the fuel of the loop is never the reason a draw has no value. -/

namespace Sys2Proof.Machine

theorem Pool.after_add (m n : Nat) (q : Pool) : Pool.after (m + n) q = Pool.after n (Pool.after m q) := by
  induction m generalizing q with
  | zero => simp [Pool.after]
  | succ m ih => rw [Nat.succ_add]; exact ih _

/-- What later digests are depends on the accumulator alone. -/
theorem Pool.after_acc {n : Nat} {q r : Pool} (h : q.acc = r.acc) : (Pool.after n q).acc = (Pool.after n r).acc := by
  induction n generalizing q r with
  | zero => exact h
  | succ n ih => exact ih (by simp [h])

/-- Digest `n` is the first with an acceptable byte, and that byte is `c`. -/
def FirstAccept (max : Byte) (q : Pool) (n : Nat) (c : Byte) : Prop :=
  (∀ m, m < n → scanDigest max (Pool.after m q).readDigest.digest = none) ∧
    scanDigest max (Pool.after n q).readDigest.digest = some c

theorem drawLoop_first {max c : Byte} {fuel n : Nat} {q : Pool} (hn : n < fuel) (h : FirstAccept max q n c) :
    drawLoop max fuel q = ⟨some c, (Pool.after n q).readDigest⟩ := by
  induction fuel generalizing q n with
  | zero => omega
  | succ f ih =>
    obtain ⟨hno, hs⟩ := h
    cases n with
    | zero =>
      simp only [Pool.after] at hs ⊢
      simp only [drawLoop, hs]
    | succ n =>
      have h0 := hno 0 (by omega)
      simp only [Pool.after] at h0
      simp only [drawLoop, h0]
      exact ih (q := q.readDigest) (by omega) ⟨fun m hm => hno (m + 1) (by omega), hs⟩

/-- The pool after a loop is the pool after some digests. -/
theorem drawLoop_after (max : Byte) (fuel : Nat) (q : Pool) : ∃ n, (drawLoop max fuel q).pool = Pool.after n q := by
  induction fuel generalizing q with
  | zero => exact ⟨0, rfl⟩
  | succ f ih =>
    simp only [drawLoop]
    split
    · exact ⟨1, rfl⟩
    · obtain ⟨n, h⟩ := ih q.readDigest
      exact ⟨n + 1, h⟩

theorem drawLoop_none {max : Byte} {fuel : Nat} {q : Pool}
    (h : ∀ m, m < fuel → scanDigest max (Pool.after m q).readDigest.digest = none) :
    (drawLoop max fuel q).value = none := by
  induction fuel generalizing q with
  | zero => rfl
  | succ f ih =>
    have h0 := h 0 (by omega)
    simp only [Pool.after] at h0
    simp only [drawLoop, h0]
    exact ih fun m hm => h (m + 1) (by omega)

/-- If some digest is acceptable, one among the first `drawFuel` is: the accumulator has no more states than that. -/
theorem firstAccept_of_accept {max : Byte} {q : Pool} {n : Nat}
    (h : scanDigest max (Pool.after n q).readDigest.digest ≠ none) : ∃ m c, m < drawFuel ∧ FirstAccept max q m c := by
  classical
  have hex : ∃ n, scanDigest max (Pool.after n q).readDigest.digest ≠ none := ⟨n, h⟩
  obtain ⟨c, hc⟩ := Option.ne_none_iff_exists'.1 (Nat.find_spec hex)
  refine ⟨Nat.find hex, c, ?_, fun m hm => not_not.1 (Nat.find_min hex hm), hc⟩
  by_contra hlt
  obtain ⟨i, j, hij, he⟩ : ∃ i j : Fin (drawFuel + 1), i ≠ j ∧ (Pool.after i q).acc = (Pool.after j q).acc := by
    obtain ⟨i, j, hij, he⟩ := Fintype.exists_ne_map_eq_of_card_lt
      (fun i : Fin (drawFuel + 1) => (Pool.after i q).acc.toFin)
      (by rw [Fintype.card_fin, Fintype.card_fin]; exact Nat.lt_succ_self _)
    exact ⟨i, j, hij, BitVec.eq_of_toFin_eq he⟩
  wlog hlt2 : i.val < j.val generalizing i j
  · exact this j i hij.symm he.symm (by have : i.val ≠ j.val := fun h => hij (Fin.ext h); omega)
  have hN := Nat.find_spec hex
  have e : Nat.find hex = j.val + (Nat.find hex - j.val) := by omega
  rw [e, Pool.after_add] at hN
  refine Nat.find_min hex (m := i.val + (Nat.find hex - j.val)) (by omega) ?_
  rw [Pool.after_add, Pool.readDigest_digest, Pool.after_acc he]
  exact hN

/-- What a bounded draw is: nothing drawn for 0, the first acceptable byte of the first digest that has one, or endless. -/
theorem boundedInteger_cases (max : Byte) (q : Pool) :
    (max = 0 ∧ boundedInteger max q = ⟨some 0, q⟩) ∨
    (max ≠ 0 ∧ ∃ n c, FirstAccept max q n c ∧ boundedInteger max q = ⟨some c, (Pool.after n q).readDigest⟩) ∨
    (Endless max q ∧ (boundedInteger max q).value = none) := by
  unfold boundedInteger
  split
  · exact .inl ⟨‹_›, rfl⟩
  · rename_i hm
    refine .inr ?_
    by_cases h : ∃ n, scanDigest max (Pool.after n q).readDigest.digest ≠ none
    · obtain ⟨n, hn⟩ := h
      obtain ⟨m, c, hlt, hf⟩ := firstAccept_of_accept hn
      exact .inl ⟨hm, m, c, hf, drawLoop_first hlt hf⟩
    · push Not at h
      exact .inr ⟨⟨hm, h⟩, drawLoop_none fun m _ => h m⟩

/-- A bounded draw has no value exactly if it never ends. -/
theorem boundedInteger_none_iff {max : Byte} {q : Pool} : (boundedInteger max q).value = none ↔ Endless max q := by
  rcases boundedInteger_cases max q with ⟨rfl, h⟩ | ⟨-, n, c, hf, h⟩ | ⟨he, h⟩
  · exact ⟨fun hn => absurd (h ▸ hn) (by simp), fun he => absurd rfl he.1⟩
  · refine ⟨fun hn => absurd (h ▸ hn) (by simp), fun he => ?_⟩
    have := he.2 n
    rw [hf.2] at this
    cases this
  · exact ⟨fun _ => he, fun _ => h⟩

/-- The pool after a bounded draw is the pool after some digests. -/
theorem boundedInteger_after (max : Byte) (q : Pool) : ∃ n, (boundedInteger max q).pool = Pool.after n q := by
  unfold boundedInteger
  split
  · exact ⟨0, rfl⟩
  · exact drawLoop_after max _ q

/-- The pool after a slot selection is the pool after some digests. -/
theorem selectLoop_after (n : Byte) (used : List Byte) (tries : Nat) (q : Pool) :
    ∃ m, (selectLoop n used tries q).pool = Pool.after m q := by
  induction tries generalizing q with
  | zero => exact ⟨0, rfl⟩
  | succ k ih =>
    have hd : ∃ m, (drawSlot n q).pool = Pool.after m q := boundedInteger_after _ q
    simp only [selectLoop]
    split
    · exact hd
    · split
      · obtain ⟨m, hm⟩ := hd
        obtain ⟨m', hm'⟩ := ih (drawSlot n q).pool
        exact ⟨m + m', by rw [hm', hm, Pool.after_add]⟩
      · exact hd

theorem selectSlot_after (n : Byte) (used : List Byte) (q : Pool) :
    ∃ m, (selectSlot n used q).pool = Pool.after m q := by
  unfold selectSlot
  split
  · exact ⟨0, rfl⟩
  · exact selectLoop_after n used _ q

end Sys2Proof.Machine
end

