-- ==== Sys2Proof/Laws/Framing.lean ====
section
/-! SUPPORT. Checksums, frame lengths, and cutting a frame into its fields. -/

namespace Sys2Proof.Machine

theorem checksum_nil : checksum [] = 0 := rfl

theorem checksum_append (s t : List Byte) : checksum (s ++ t) = checksum s + checksum t := by
  simp [checksum, BitVec.ofNat_add]

theorem checksum_cons (b : Byte) (s : List Byte) : checksum (b :: s) = b + checksum s := by
  simp [checksum, BitVec.ofNat_add]

theorem checksumOk_append (body : List Byte) (ck : Byte) :
    checksumOk (body ++ [ck]) = decide (ck = checksum body) := by
  by_cases h : ck = checksum body <;> simp [checksumOk, h]

/-- 40_frame_reception.md R94: a body with its checksum passes. -/
theorem checksumOk_frameOf (a c p : Byte) (data : List Byte) : checksumOk (frameOf a c p data) = true := by
  simp [frameOf, checksumOk_append]

theorem toNat_ofNat_length {data : List Byte} (h : data.length ≤ 255) :
    (BitVec.ofNat 8 data.length).toNat = data.length := by
  simp only [BitVec.toNat_ofNat]; omega

theorem length_frameOf (a c p : Byte) (data : List Byte) :
    (frameOf a c p data).length = data.length + 5 := by
  simp [frameOf, frameBody]

theorem declaredLength_body {a c p : Byte} {data rest : List Byte} (h : data.length ≤ 255) :
    declaredLength (frameBody a c p data ++ rest) = some (data.length + 5) := by
  simp only [frameBody, List.cons_append, declaredLength, toNat_ofNat_length h]

theorem declaredLength_frameOf {a c p : Byte} {data : List Byte} (h : data.length ≤ 255) :
    declaredLength (frameOf a c p data) = some (data.length + 5) := declaredLength_body h

/-- R92 in one line: complete means at least five bytes and at least the declared length. -/
theorem isFrameComplete_iff (buf : List Byte) :
    isFrameComplete buf = true ↔ ∃ n, declaredLength buf = some n ∧ n ≤ buf.length := by
  unfold isFrameComplete
  cases h : declaredLength buf with
  | none => simp
  | some n =>
    have : 5 ≤ n := by
      revert h
      match buf with
      | [] | [_] | [_, _] | [_, _, _] => simp [declaredLength]
      | _ :: _ :: _ :: l :: _ => simp only [declaredLength, Option.some.injEq]; omega
    simp only [isCandidate, Bool.and_eq_true, decide_eq_true_eq, Option.some.injEq, exists_eq_left']
    omega

/-! ### The destination class (40_frame_reception.md R95) -/

theorem classify_eq_broadcast {address a : Byte} : classify address a = .broadcast ↔ a = 0xFF := by
  unfold classify
  split
  · simp_all
  · split <;> simp_all

theorem classify_eq_unicast {address a : Byte} : classify address a = .unicast ↔ a ≠ 0xFF ∧ a = address := by
  unfold classify
  split
  · simp_all
  · split <;> simp_all

theorem classify_eq_foreign {address a : Byte} : classify address a = .foreign ↔ a ≠ 0xFF ∧ a ≠ address := by
  unfold classify
  split
  · simp_all
  · split <;> simp_all

end Sys2Proof.Machine

namespace Sys2Proof

open Machine

/-- A frame laid out by `frameBody` and any checksum byte is cut back into its fields. -/
theorem parseFrame_body {a c p : Byte} {data : List Byte} (ck : Byte) (h : data.length ≤ 255) :
    parseFrame (frameBody a c p data ++ [ck]) = .ok ⟨a, c, p, data, ck⟩ := by
  simp [frameBody, parseFrame, toNat_ofNat_length h]

theorem parseFrame_frameOf {a c p : Byte} {data : List Byte} (h : data.length ≤ 255) :
    parseFrame (frameOf a c p data) = .ok ⟨a, c, p, data, checksum (frameBody a c p data)⟩ := parseFrame_body _ h

/-- Bytes that parse are a body and a checksum byte. -/
theorem parseFrame_ok {bytes : List Byte} {f : Frame} (h : parseFrame bytes = .ok f) :
    bytes = frameBody f.dest f.cmd f.param f.payload ++ [f.ck] ∧ f.payload.length ≤ 255 := by
  match bytes with
  | [] | [_] | [_, _] | [_, _, _] => simp [parseFrame] at h
  | a :: c :: p :: l :: rest =>
    simp only [parseFrame] at h
    split at h
    · cases h
    split at h
    · cases h
    split at h
    · cases h
    cases h
    have hl := l.isLt
    have hne : rest ≠ [] := by rintro rfl; simp at *
    have hlen : rest.dropLast.length = l.toNat := by simp only [List.length_dropLast]; omega
    refine ⟨?_, by rw [hlen]; omega⟩
    have hl' : BitVec.ofNat 8 rest.dropLast.length = l := by rw [hlen]; simp
    simp only [frameBody, hl', List.cons_append, List.cons.injEq, true_and]
    rw [List.getLastD_eq_getLast?, List.getLast?_eq_getLast_of_ne_nil hne, Option.getD_some,
      List.dropLast_append_getLast]

/-- Exactly the complete frames of their declared length parse. -/
theorem parseFrame_isOk {bytes : List Byte} (h : declaredLength bytes = some bytes.length) :
    ∃ f, parseFrame bytes = .ok f := by
  match bytes with
  | [] | [_] | [_, _] | [_, _, _] => simp [declaredLength] at h
  | a :: c :: p :: l :: rest =>
    simp only [declaredLength, Option.some.injEq, List.length_cons] at h
    have h1 : ¬ rest.length < 1 := by omega
    have h2 : ¬ rest.length < l.toNat + 1 := by omega
    have h3 : ¬ l.toNat + 1 < rest.length := by omega
    exact ⟨_, by simp only [parseFrame, h1, h2, h3, if_false]; rfl⟩

/-! ### Decoding by destination class (30_encoding.md R72) -/

variable {address : Byte} {bytes : List Byte} {f : Frame}

theorem decode_broadcast (hf : parseFrame bytes = .ok f) (hc : classify address f.dest = .broadcast) :
    decode address bytes =
      if checksumOk bytes then .ok (decodeLocal .broadcast f.cmd f.param f.payload)
      else .error .badChecksumBroadcast := by
  simp only [decode, hf, hc]

theorem decode_unicast (hf : parseFrame bytes = .ok f) (hc : classify address f.dest = .unicast) :
    decode address bytes =
      if checksumOk bytes then .ok (decodeLocal (.unicast f.dest) f.cmd f.param f.payload)
      else .error .badChecksumUnicast := by
  simp only [decode, hf, hc]

theorem decode_foreign (hf : parseFrame bytes = .ok f) (hc : classify address f.dest = .foreign) :
    decode address bytes = .ok (decodeForeign (checksumOk bytes) f) := by
  simp only [decode, hf, hc]

/-! ### The header word under a mask (30_encoding.md R66) -/

theorem bitVec_append_inj {w v : Nat} {a c : BitVec w} {b d : BitVec v} : a ++ b = c ++ d ↔ a = c ∧ b = d := by
  refine ⟨fun h => ⟨?_, ?_⟩, fun ⟨h1, h2⟩ => by rw [h1, h2]⟩
  · have := congrArg (BitVec.extractLsb' v w) h
    rwa [BitVec.extractLsb'_append_eq_left, BitVec.extractLsb'_append_eq_left] at this
  · have := congrArg (BitVec.extractLsb' 0 v) h
    rwa [BitVec.extractLsb'_append_eq_right, BitVec.extractLsb'_append_eq_right] at this

/-- A mask that leaves the destination out compares the other three bytes one by one. -/
theorem headerWord_and_eq (a c p l mc mp ml vc vp vl : Byte) :
    headerWord a c p l &&& headerWord 0 mc mp ml = headerWord 0 vc vp vl ↔
      c &&& mc = vc ∧ p &&& mp = vp ∧ l &&& ml = vl := by
  show ((a ++ c ++ p ++ l : BitVec (8 + 8 + 8 + 8)) &&& (0 ++ mc ++ mp ++ ml)) = 0 ++ vc ++ vp ++ vl ↔ _
  rw [BitVec.and_append, BitVec.and_append, BitVec.and_append, bitVec_append_inj, bitVec_append_inj, bitVec_append_inj]
  simp [and_assoc]

end Sys2Proof
end

