-- ==== Sys2Proof/Laws/Memory.lean ====
section
/-! SUPPORT. The NVM: read after write, and every write keeps the canonical form. -/

namespace Sys2Proof.Machine

theorem Memory.read_put (m : Memory) (off o : Nat) (v : Byte) :
    (Memory.put m off v).read o = if o = off then v else m.read o := by
  induction m with
  | nil => by_cases h : o = off <;> simp [Memory.put, Memory.read, h, Ne.symm]
  | cons c m ih =>
    obtain ⟨k, w⟩ := c
    by_cases h1 : off < k
    · by_cases h : o = off
      · simp [Memory.put, Memory.read, h1, h]
      · simp [Memory.put, Memory.read, h1, h, Ne.symm h]
    · by_cases h2 : off = k
      · subst h2
        by_cases h : o = off
        · simp [Memory.put, Memory.read, h]
        · simp [Memory.put, Memory.read, h, Ne.symm h]
      · by_cases h3 : k = o
        · subst h3; simp [Memory.put, Memory.read, h1, h2, Ne.symm h2]
        · simp [Memory.put, Memory.read, h1, h2, h3, ih]

theorem Memory.read_erase_other (m : Memory) {off o : Nat} (h : o ≠ off) :
    (Memory.erase m off).read o = m.read o := by
  induction m with
  | nil => rfl
  | cons c m ih =>
    obtain ⟨k, w⟩ := c
    by_cases h2 : k = off
    · subst h2; simp [Memory.erase, Memory.read, Ne.symm h]
    · simp [Memory.erase, Memory.read, h2, ih]

/-- Below the first offset nothing is listed. -/
theorem Memory.read_below (m : Memory) {low off : Nat} (hw : Memory.wfFrom low m = true) (h : off < low) :
    m.read off = Memory.unlisted off := by
  induction m generalizing low with
  | nil => rfl
  | cons c m ih =>
    obtain ⟨k, w⟩ := c
    simp only [Memory.wfFrom, Bool.and_eq_true, decide_eq_true_eq] at hw
    obtain ⟨⟨⟨h1, -⟩, -⟩, h4⟩ := hw
    have : k ≠ off := by omega
    simp [Memory.read, this, ih h4 (by omega)]

theorem Memory.read_erase_same (m : Memory) {low : Nat} (off : Nat) (hw : Memory.wfFrom low m = true) :
    (Memory.erase m off).read off = Memory.unlisted off := by
  induction m generalizing low with
  | nil => rfl
  | cons c m ih =>
    obtain ⟨k, w⟩ := c
    simp only [Memory.wfFrom, Bool.and_eq_true, decide_eq_true_eq] at hw
    obtain ⟨-, h4⟩ := hw
    by_cases h2 : k = off
    · subst h2; simp [Memory.erase, Memory.read_below m h4 (Nat.lt_succ_self _)]
    · simp [Memory.erase, Memory.read, h2, ih h4]

/-- A read after a write (20_memory.md R41, R42). -/
theorem Memory.read_write (m : Memory) (off o : Nat) (v : Byte) (hw : m.wf = true) :
    (m.write off v).read o = if o = off then v else m.read o := by
  unfold Memory.write
  split
  · rename_i h
    by_cases ho : o = off
    · subst ho; simp [Memory.read_erase_same m o hw, h]
    · simp [ho, Memory.read_erase_other m ho]
  · exact Memory.read_put m off o v

theorem Memory.wfFrom_weaken (m : Memory) {low low' : Nat} (h : low' ≤ low) (hw : Memory.wfFrom low m = true) :
    Memory.wfFrom low' m = true := by
  cases m with
  | nil => rfl
  | cons c m =>
    obtain ⟨k, w⟩ := c
    simp only [Memory.wfFrom, Bool.and_eq_true, decide_eq_true_eq] at hw ⊢
    obtain ⟨⟨⟨h1, h2⟩, h3⟩, h4⟩ := hw
    exact ⟨⟨⟨by omega, h2⟩, h3⟩, h4⟩

theorem Memory.wfFrom_erase (m : Memory) {low : Nat} (off : Nat) (hw : Memory.wfFrom low m = true) :
    Memory.wfFrom low (Memory.erase m off) = true := by
  induction m generalizing low with
  | nil => rfl
  | cons c m ih =>
    obtain ⟨k, w⟩ := c
    simp only [Memory.wfFrom, Bool.and_eq_true, decide_eq_true_eq] at hw
    obtain ⟨⟨⟨h1, h2⟩, h3⟩, h4⟩ := hw
    by_cases h : k = off
    · simpa [Memory.erase, h] using Memory.wfFrom_weaken m (by omega) h4
    · simp [Memory.erase, h, Memory.wfFrom, h1, h2, h3, ih h4]

theorem Memory.wfFrom_put (m : Memory) {low off : Nat} {v : Byte} (hl : low ≤ off) (hs : off < Config.nvmSize)
    (hv : v ≠ Memory.unlisted off) (hw : Memory.wfFrom low m = true) :
    Memory.wfFrom low (Memory.put m off v) = true := by
  induction m generalizing low with
  | nil => simp [Memory.put, Memory.wfFrom, hl, hs, hv]
  | cons c m ih =>
    obtain ⟨k, w⟩ := c
    simp only [Memory.wfFrom, Bool.and_eq_true, decide_eq_true_eq] at hw
    obtain ⟨⟨⟨h1, h2⟩, h3⟩, h4⟩ := hw
    by_cases ha : off < k
    · simp [Memory.put, ha, Memory.wfFrom, hl, hs, hv, h2, h3, h4, Nat.succ_le_of_lt ha]
    · by_cases hb : off = k
      · subst hb; simp [Memory.put, Memory.wfFrom, hl, hs, hv, h4]
      · simp [Memory.put, ha, hb, Memory.wfFrom, h1, h2, h3, ih (by omega) h4]

/-- Every write inside the NVM keeps the canonical form. -/
theorem Memory.wf_write (m : Memory) {off : Nat} (v : Byte) (hs : off < Config.nvmSize) (hw : m.wf = true) :
    (m.write off v).wf = true := by
  unfold Memory.write
  split
  · exact Memory.wfFrom_erase m off hw
  · rename_i h
    exact Memory.wfFrom_put m (Nat.zero_le _) hs h hw

/-- The factory contents are canonical. -/
theorem Memory.wf_nil : Memory.wf [] = true := rfl

/-- `ADDR_NVM_OFFSET < NVM_SIZE` (00_scope.md R6). -/
theorem addrNvmOffset_lt : Config.addrNvmOffset < Config.nvmSize := by
  unfold Config.nvmSize; omega

/-- `SEED_NVM_BASE + SEED_NVM_LEN <= NVM_SIZE` (00_scope.md R6). -/
theorem seedBlock_le : Config.seedNvmBase + Config.seedNvmLen ≤ Config.nvmSize := by
  unfold Config.nvmSize; omega

end Sys2Proof.Machine
end

