-- ==== Sys2Proof/Laws/State.lean ====
section
/-! SUPPORT. One lemma per field per update of State, each true by rfl. -/

namespace Sys2Proof.Machine

variable (s : State)

/-! ## State.setSuppression -/

@[simp] theorem State.setSuppression_address (d : DestClass) : (s.setSuppression d).address = s.address := rfl
@[simp] theorem State.setSuppression_slotCount (d : DestClass) : (s.setSuppression d).slotCount = s.slotCount := rfl
@[simp] theorem State.setSuppression_selectedSlot (d : DestClass) : (s.setSuppression d).selectedSlot = s.selectedSlot := rfl
@[simp] theorem State.setSuppression_nextSlot (d : DestClass) : (s.setSuppression d).nextSlot = s.nextSlot := rfl
@[simp] theorem State.setSuppression_usedSlots (d : DestClass) : (s.setSuppression d).usedSlots = s.usedSlots := rfl
@[simp] theorem State.setSuppression_rxbuf (d : DestClass) : (s.setSuppression d).rxbuf = s.rxbuf := rfl
@[simp] theorem State.setSuppression_respondSuppressed (d : DestClass) : (s.setSuppression d).respondSuppressed = decide (d = .broadcast) := rfl
@[simp] theorem State.setSuppression_acc (d : DestClass) : (s.setSuppression d).acc = s.acc := rfl
@[simp] theorem State.setSuppression_digest (d : DestClass) : (s.setSuppression d).digest = s.digest := rfl
@[simp] theorem State.setSuppression_nvm (d : DestClass) : (s.setSuppression d).nvm = s.nvm := rfl
@[simp] theorem State.setSuppression_extState (d : DestClass) : (s.setSuppression d).extState = s.extState := rfl
@[simp] theorem State.setSuppression_tx (d : DestClass) : (s.setSuppression d).tx = s.tx := rfl
@[simp] theorem State.setSuppression_port (d : DestClass) : (s.setSuppression d).port = s.port := rfl
@[simp] theorem State.setSuppression_poolResult (d : DestClass) : (s.setSuppression d).poolResult = s.poolResult := rfl
@[simp] theorem State.setSuppression_events (d : DestClass) : (s.setSuppression d).events = s.events := rfl
@[simp] theorem State.setSuppression_drawIndex (d : DestClass) : (s.setSuppression d).drawIndex = s.drawIndex := rfl
@[simp] theorem State.setSuppression_hung (d : DestClass) : (s.setSuppression d).hung = s.hung := rfl

/-! ## State.clearSuppression -/

@[simp] theorem State.clearSuppression_address : (s.clearSuppression).address = s.address := rfl
@[simp] theorem State.clearSuppression_slotCount : (s.clearSuppression).slotCount = s.slotCount := rfl
@[simp] theorem State.clearSuppression_selectedSlot : (s.clearSuppression).selectedSlot = s.selectedSlot := rfl
@[simp] theorem State.clearSuppression_nextSlot : (s.clearSuppression).nextSlot = s.nextSlot := rfl
@[simp] theorem State.clearSuppression_usedSlots : (s.clearSuppression).usedSlots = s.usedSlots := rfl
@[simp] theorem State.clearSuppression_rxbuf : (s.clearSuppression).rxbuf = s.rxbuf := rfl
@[simp] theorem State.clearSuppression_respondSuppressed : (s.clearSuppression).respondSuppressed = false := rfl
@[simp] theorem State.clearSuppression_acc : (s.clearSuppression).acc = s.acc := rfl
@[simp] theorem State.clearSuppression_digest : (s.clearSuppression).digest = s.digest := rfl
@[simp] theorem State.clearSuppression_nvm : (s.clearSuppression).nvm = s.nvm := rfl
@[simp] theorem State.clearSuppression_extState : (s.clearSuppression).extState = s.extState := rfl
@[simp] theorem State.clearSuppression_tx : (s.clearSuppression).tx = s.tx := rfl
@[simp] theorem State.clearSuppression_port : (s.clearSuppression).port = s.port := rfl
@[simp] theorem State.clearSuppression_poolResult : (s.clearSuppression).poolResult = s.poolResult := rfl
@[simp] theorem State.clearSuppression_events : (s.clearSuppression).events = s.events := rfl
@[simp] theorem State.clearSuppression_drawIndex : (s.clearSuppression).drawIndex = s.drawIndex := rfl
@[simp] theorem State.clearSuppression_hung : (s.clearSuppression).hung = s.hung := rfl

/-! ## State.reply -/

@[simp] theorem State.reply_address (c p : Byte) (data : List Byte) : (s.reply c p data).address = s.address := rfl
@[simp] theorem State.reply_slotCount (c p : Byte) (data : List Byte) : (s.reply c p data).slotCount = s.slotCount := rfl
@[simp] theorem State.reply_selectedSlot (c p : Byte) (data : List Byte) : (s.reply c p data).selectedSlot = s.selectedSlot := rfl
@[simp] theorem State.reply_nextSlot (c p : Byte) (data : List Byte) : (s.reply c p data).nextSlot = s.nextSlot := rfl
@[simp] theorem State.reply_usedSlots (c p : Byte) (data : List Byte) : (s.reply c p data).usedSlots = s.usedSlots := rfl
@[simp] theorem State.reply_rxbuf (c p : Byte) (data : List Byte) : (s.reply c p data).rxbuf = s.rxbuf := rfl
@[simp] theorem State.reply_respondSuppressed (c p : Byte) (data : List Byte) : (s.reply c p data).respondSuppressed = s.respondSuppressed := rfl
@[simp] theorem State.reply_acc (c p : Byte) (data : List Byte) : (s.reply c p data).acc = s.acc := rfl
@[simp] theorem State.reply_digest (c p : Byte) (data : List Byte) : (s.reply c p data).digest = s.digest := rfl
@[simp] theorem State.reply_nvm (c p : Byte) (data : List Byte) : (s.reply c p data).nvm = s.nvm := rfl
@[simp] theorem State.reply_extState (c p : Byte) (data : List Byte) : (s.reply c p data).extState = s.extState := rfl
@[simp] theorem State.reply_tx (c p : Byte) (data : List Byte) : (s.reply c p data).tx =
    if s.respondSuppressed then s.tx else s.tx ++ [frameOf s.address c p data] := rfl
@[simp] theorem State.reply_port (c p : Byte) (data : List Byte) : (s.reply c p data).port = s.port := rfl
@[simp] theorem State.reply_poolResult (c p : Byte) (data : List Byte) : (s.reply c p data).poolResult = s.poolResult := rfl
@[simp] theorem State.reply_events (c p : Byte) (data : List Byte) : (s.reply c p data).events = s.events := rfl
@[simp] theorem State.reply_drawIndex (c p : Byte) (data : List Byte) : (s.reply c p data).drawIndex = s.drawIndex := rfl
@[simp] theorem State.reply_hung (c p : Byte) (data : List Byte) : (s.reply c p data).hung = s.hung := rfl

/-! ## State.raise -/

@[simp] theorem State.raise_address (e : ErrorCause) (p : Byte) : (s.raise e p).address = s.address := rfl
@[simp] theorem State.raise_slotCount (e : ErrorCause) (p : Byte) : (s.raise e p).slotCount = s.slotCount := rfl
@[simp] theorem State.raise_selectedSlot (e : ErrorCause) (p : Byte) : (s.raise e p).selectedSlot = s.selectedSlot := rfl
@[simp] theorem State.raise_nextSlot (e : ErrorCause) (p : Byte) : (s.raise e p).nextSlot = s.nextSlot := rfl
@[simp] theorem State.raise_usedSlots (e : ErrorCause) (p : Byte) : (s.raise e p).usedSlots = s.usedSlots := rfl
@[simp] theorem State.raise_rxbuf (e : ErrorCause) (p : Byte) : (s.raise e p).rxbuf = s.rxbuf := rfl
@[simp] theorem State.raise_respondSuppressed (e : ErrorCause) (p : Byte) : (s.raise e p).respondSuppressed = s.respondSuppressed := rfl
@[simp] theorem State.raise_acc (e : ErrorCause) (p : Byte) : (s.raise e p).acc = s.acc := rfl
@[simp] theorem State.raise_digest (e : ErrorCause) (p : Byte) : (s.raise e p).digest = s.digest := rfl
@[simp] theorem State.raise_nvm (e : ErrorCause) (p : Byte) : (s.raise e p).nvm = s.nvm := rfl
@[simp] theorem State.raise_extState (e : ErrorCause) (p : Byte) : (s.raise e p).extState = s.extState := rfl
@[simp] theorem State.raise_tx (e : ErrorCause) (p : Byte) : (s.raise e p).tx =
    if s.respondSuppressed then s.tx else s.tx ++ [errorFrame s.address e p] := rfl
@[simp] theorem State.raise_port (e : ErrorCause) (p : Byte) : (s.raise e p).port = s.port := rfl
@[simp] theorem State.raise_poolResult (e : ErrorCause) (p : Byte) : (s.raise e p).poolResult = s.poolResult := rfl
@[simp] theorem State.raise_events (e : ErrorCause) (p : Byte) : (s.raise e p).events = s.events := rfl
@[simp] theorem State.raise_drawIndex (e : ErrorCause) (p : Byte) : (s.raise e p).drawIndex = s.drawIndex := rfl
@[simp] theorem State.raise_hung (e : ErrorCause) (p : Byte) : (s.raise e p).hung = s.hung := rfl

/-! ## State.storeAddress -/

@[simp] theorem State.storeAddress_address (new : Byte) : (s.storeAddress new).address = new := rfl
@[simp] theorem State.storeAddress_slotCount (new : Byte) : (s.storeAddress new).slotCount = s.slotCount := rfl
@[simp] theorem State.storeAddress_selectedSlot (new : Byte) : (s.storeAddress new).selectedSlot = s.selectedSlot := rfl
@[simp] theorem State.storeAddress_nextSlot (new : Byte) : (s.storeAddress new).nextSlot = s.nextSlot := rfl
@[simp] theorem State.storeAddress_usedSlots (new : Byte) : (s.storeAddress new).usedSlots = s.usedSlots := rfl
@[simp] theorem State.storeAddress_rxbuf (new : Byte) : (s.storeAddress new).rxbuf = s.rxbuf := rfl
@[simp] theorem State.storeAddress_respondSuppressed (new : Byte) : (s.storeAddress new).respondSuppressed = s.respondSuppressed := rfl
@[simp] theorem State.storeAddress_acc (new : Byte) : (s.storeAddress new).acc = s.acc := rfl
@[simp] theorem State.storeAddress_digest (new : Byte) : (s.storeAddress new).digest = s.digest := rfl
@[simp] theorem State.storeAddress_nvm (new : Byte) : (s.storeAddress new).nvm = s.nvm.write Config.addrNvmOffset new := rfl
@[simp] theorem State.storeAddress_extState (new : Byte) : (s.storeAddress new).extState = s.extState := rfl
@[simp] theorem State.storeAddress_tx (new : Byte) : (s.storeAddress new).tx = s.tx := rfl
@[simp] theorem State.storeAddress_port (new : Byte) : (s.storeAddress new).port = s.port := rfl
@[simp] theorem State.storeAddress_poolResult (new : Byte) : (s.storeAddress new).poolResult = s.poolResult := rfl
@[simp] theorem State.storeAddress_events (new : Byte) : (s.storeAddress new).events = s.events := rfl
@[simp] theorem State.storeAddress_drawIndex (new : Byte) : (s.storeAddress new).drawIndex = s.drawIndex := rfl
@[simp] theorem State.storeAddress_hung (new : Byte) : (s.storeAddress new).hung = s.hung := rfl

/-! ## State.usedInsert -/

@[simp] theorem State.usedInsert_address (v : Byte) : (s.usedInsert v).address = s.address := rfl
@[simp] theorem State.usedInsert_slotCount (v : Byte) : (s.usedInsert v).slotCount = s.slotCount := rfl
@[simp] theorem State.usedInsert_selectedSlot (v : Byte) : (s.usedInsert v).selectedSlot = s.selectedSlot := rfl
@[simp] theorem State.usedInsert_nextSlot (v : Byte) : (s.usedInsert v).nextSlot = s.nextSlot := rfl
@[simp] theorem State.usedInsert_usedSlots (v : Byte) : (s.usedInsert v).usedSlots =
      if v ∈ s.usedSlots then s.usedSlots
      else if s.usedSlots.length < Config.usedCap then s.usedSlots ++ [v]
      else s.usedSlots := rfl
@[simp] theorem State.usedInsert_rxbuf (v : Byte) : (s.usedInsert v).rxbuf = s.rxbuf := rfl
@[simp] theorem State.usedInsert_respondSuppressed (v : Byte) : (s.usedInsert v).respondSuppressed = s.respondSuppressed := rfl
@[simp] theorem State.usedInsert_acc (v : Byte) : (s.usedInsert v).acc = s.acc := rfl
@[simp] theorem State.usedInsert_digest (v : Byte) : (s.usedInsert v).digest = s.digest := rfl
@[simp] theorem State.usedInsert_nvm (v : Byte) : (s.usedInsert v).nvm = s.nvm := rfl
@[simp] theorem State.usedInsert_extState (v : Byte) : (s.usedInsert v).extState = s.extState := rfl
@[simp] theorem State.usedInsert_tx (v : Byte) : (s.usedInsert v).tx = s.tx := rfl
@[simp] theorem State.usedInsert_port (v : Byte) : (s.usedInsert v).port = s.port := rfl
@[simp] theorem State.usedInsert_poolResult (v : Byte) : (s.usedInsert v).poolResult = s.poolResult := rfl
@[simp] theorem State.usedInsert_events (v : Byte) : (s.usedInsert v).events = s.events := rfl
@[simp] theorem State.usedInsert_drawIndex (v : Byte) : (s.usedInsert v).drawIndex = s.drawIndex := rfl
@[simp] theorem State.usedInsert_hung (v : Byte) : (s.usedInsert v).hung = s.hung := rfl

/-! ## State.beginRound -/

@[simp] theorem State.beginRound_address (n : Byte) : (s.beginRound n).address = s.address := rfl
@[simp] theorem State.beginRound_slotCount (n : Byte) : (s.beginRound n).slotCount = n := rfl
@[simp] theorem State.beginRound_selectedSlot (n : Byte) : (s.beginRound n).selectedSlot = s.selectedSlot := rfl
@[simp] theorem State.beginRound_nextSlot (n : Byte) : (s.beginRound n).nextSlot = s.nextSlot := rfl
@[simp] theorem State.beginRound_usedSlots (n : Byte) : (s.beginRound n).usedSlots = [] := rfl
@[simp] theorem State.beginRound_rxbuf (n : Byte) : (s.beginRound n).rxbuf = s.rxbuf := rfl
@[simp] theorem State.beginRound_respondSuppressed (n : Byte) : (s.beginRound n).respondSuppressed = s.respondSuppressed := rfl
@[simp] theorem State.beginRound_acc (n : Byte) : (s.beginRound n).acc = s.acc := rfl
@[simp] theorem State.beginRound_digest (n : Byte) : (s.beginRound n).digest = s.digest := rfl
@[simp] theorem State.beginRound_nvm (n : Byte) : (s.beginRound n).nvm = s.nvm := rfl
@[simp] theorem State.beginRound_extState (n : Byte) : (s.beginRound n).extState = s.extState := rfl
@[simp] theorem State.beginRound_tx (n : Byte) : (s.beginRound n).tx = s.tx := rfl
@[simp] theorem State.beginRound_port (n : Byte) : (s.beginRound n).port = s.port := rfl
@[simp] theorem State.beginRound_poolResult (n : Byte) : (s.beginRound n).poolResult = s.poolResult := rfl
@[simp] theorem State.beginRound_events (n : Byte) : (s.beginRound n).events = s.events := rfl
@[simp] theorem State.beginRound_drawIndex (n : Byte) : (s.beginRound n).drawIndex = s.drawIndex := rfl
@[simp] theorem State.beginRound_hung (n : Byte) : (s.beginRound n).hung = s.hung := rfl

/-! ## State.withPool -/

@[simp] theorem State.withPool_address (q : Pool) : (s.withPool q).address = s.address := rfl
@[simp] theorem State.withPool_slotCount (q : Pool) : (s.withPool q).slotCount = s.slotCount := rfl
@[simp] theorem State.withPool_selectedSlot (q : Pool) : (s.withPool q).selectedSlot = s.selectedSlot := rfl
@[simp] theorem State.withPool_nextSlot (q : Pool) : (s.withPool q).nextSlot = s.nextSlot := rfl
@[simp] theorem State.withPool_usedSlots (q : Pool) : (s.withPool q).usedSlots = s.usedSlots := rfl
@[simp] theorem State.withPool_rxbuf (q : Pool) : (s.withPool q).rxbuf = s.rxbuf := rfl
@[simp] theorem State.withPool_respondSuppressed (q : Pool) : (s.withPool q).respondSuppressed = s.respondSuppressed := rfl
@[simp] theorem State.withPool_acc (q : Pool) : (s.withPool q).acc = q.acc := rfl
@[simp] theorem State.withPool_digest (q : Pool) : (s.withPool q).digest = q.digest := rfl
@[simp] theorem State.withPool_nvm (q : Pool) : (s.withPool q).nvm = s.nvm := rfl
@[simp] theorem State.withPool_extState (q : Pool) : (s.withPool q).extState = s.extState := rfl
@[simp] theorem State.withPool_tx (q : Pool) : (s.withPool q).tx = s.tx := rfl
@[simp] theorem State.withPool_port (q : Pool) : (s.withPool q).port = s.port := rfl
@[simp] theorem State.withPool_poolResult (q : Pool) : (s.withPool q).poolResult = s.poolResult := rfl
@[simp] theorem State.withPool_events (q : Pool) : (s.withPool q).events = s.events := rfl
@[simp] theorem State.withPool_drawIndex (q : Pool) : (s.withPool q).drawIndex = s.drawIndex := rfl
@[simp] theorem State.withPool_hung (q : Pool) : (s.withPool q).hung = s.hung := rfl

/-! ## State.countDraw -/

@[simp] theorem State.countDraw_address : (s.countDraw).address = s.address := rfl
@[simp] theorem State.countDraw_slotCount : (s.countDraw).slotCount = s.slotCount := rfl
@[simp] theorem State.countDraw_selectedSlot : (s.countDraw).selectedSlot = s.selectedSlot := rfl
@[simp] theorem State.countDraw_nextSlot : (s.countDraw).nextSlot = s.nextSlot := rfl
@[simp] theorem State.countDraw_usedSlots : (s.countDraw).usedSlots = s.usedSlots := rfl
@[simp] theorem State.countDraw_rxbuf : (s.countDraw).rxbuf = s.rxbuf := rfl
@[simp] theorem State.countDraw_respondSuppressed : (s.countDraw).respondSuppressed = s.respondSuppressed := rfl
@[simp] theorem State.countDraw_acc : (s.countDraw).acc = s.acc := rfl
@[simp] theorem State.countDraw_digest : (s.countDraw).digest = s.digest := rfl
@[simp] theorem State.countDraw_nvm : (s.countDraw).nvm = s.nvm := rfl
@[simp] theorem State.countDraw_extState : (s.countDraw).extState = s.extState := rfl
@[simp] theorem State.countDraw_tx : (s.countDraw).tx = s.tx := rfl
@[simp] theorem State.countDraw_port : (s.countDraw).port = s.port := rfl
@[simp] theorem State.countDraw_poolResult : (s.countDraw).poolResult = s.poolResult := rfl
@[simp] theorem State.countDraw_events : (s.countDraw).events = s.events := rfl
@[simp] theorem State.countDraw_drawIndex : (s.countDraw).drawIndex = s.drawIndex + 1 := rfl
@[simp] theorem State.countDraw_hung : (s.countDraw).hung = s.hung := rfl

/-! ## State.takeSlot -/

@[simp] theorem State.takeSlot_address : (s.takeSlot).address = s.address := rfl
@[simp] theorem State.takeSlot_slotCount : (s.takeSlot).slotCount = s.slotCount := rfl
@[simp] theorem State.takeSlot_selectedSlot : (s.takeSlot).selectedSlot =
    (selectSlot s.slotCount s.usedSlots s.pool).value.getD s.selectedSlot := rfl
@[simp] theorem State.takeSlot_nextSlot : (s.takeSlot).nextSlot =
    (selectSlot s.slotCount s.usedSlots s.pool).value.getD s.nextSlot := rfl
@[simp] theorem State.takeSlot_usedSlots : (s.takeSlot).usedSlots = s.usedSlots := rfl
@[simp] theorem State.takeSlot_rxbuf : (s.takeSlot).rxbuf = s.rxbuf := rfl
@[simp] theorem State.takeSlot_respondSuppressed : (s.takeSlot).respondSuppressed = s.respondSuppressed := rfl
@[simp] theorem State.takeSlot_acc : (s.takeSlot).acc = (selectSlot s.slotCount s.usedSlots s.pool).pool.acc := rfl
@[simp] theorem State.takeSlot_digest : (s.takeSlot).digest = (selectSlot s.slotCount s.usedSlots s.pool).pool.digest := rfl
@[simp] theorem State.takeSlot_nvm : (s.takeSlot).nvm = s.nvm := rfl
@[simp] theorem State.takeSlot_extState : (s.takeSlot).extState = s.extState := rfl
@[simp] theorem State.takeSlot_tx : (s.takeSlot).tx = s.tx := rfl
@[simp] theorem State.takeSlot_port : (s.takeSlot).port = s.port := rfl
@[simp] theorem State.takeSlot_poolResult : (s.takeSlot).poolResult = s.poolResult := rfl
@[simp] theorem State.takeSlot_events : (s.takeSlot).events = s.events := rfl
@[simp] theorem State.takeSlot_drawIndex : (s.takeSlot).drawIndex = s.drawIndex := rfl
@[simp] theorem State.takeSlot_hung : (s.takeSlot).hung =
    (s.hung || (selectSlot s.slotCount s.usedSlots s.pool).value.isNone) := rfl

/-! ## State.counterFeed -/

@[simp] theorem State.counterFeed_address : (s.counterFeed).address = s.address := rfl
@[simp] theorem State.counterFeed_slotCount : (s.counterFeed).slotCount = s.slotCount := rfl
@[simp] theorem State.counterFeed_selectedSlot : (s.counterFeed).selectedSlot = s.selectedSlot := rfl
@[simp] theorem State.counterFeed_nextSlot : (s.counterFeed).nextSlot = s.nextSlot := rfl
@[simp] theorem State.counterFeed_usedSlots : (s.counterFeed).usedSlots = s.usedSlots := rfl
@[simp] theorem State.counterFeed_rxbuf : (s.counterFeed).rxbuf = s.rxbuf := rfl
@[simp] theorem State.counterFeed_respondSuppressed : (s.counterFeed).respondSuppressed = s.respondSuppressed := rfl
@[simp] theorem State.counterFeed_acc : (s.counterFeed).acc =
    if s.hung then s.acc else hashUpdate s.acc [Config.counterSample s.drawIndex] := rfl
@[simp] theorem State.counterFeed_digest : (s.counterFeed).digest = s.digest := rfl
@[simp] theorem State.counterFeed_nvm : (s.counterFeed).nvm = s.nvm := rfl
@[simp] theorem State.counterFeed_extState : (s.counterFeed).extState = s.extState := rfl
@[simp] theorem State.counterFeed_tx : (s.counterFeed).tx = s.tx := rfl
@[simp] theorem State.counterFeed_port : (s.counterFeed).port = s.port := rfl
@[simp] theorem State.counterFeed_poolResult : (s.counterFeed).poolResult = s.poolResult := rfl
@[simp] theorem State.counterFeed_events : (s.counterFeed).events = s.events := rfl
@[simp] theorem State.counterFeed_drawIndex : (s.counterFeed).drawIndex = if s.hung then s.drawIndex else s.drawIndex + 1 := rfl
@[simp] theorem State.counterFeed_hung : (s.counterFeed).hung = s.hung := rfl

/-! ## State.powerUp -/

@[simp] theorem State.powerUp_address (noise : Vector Byte Config.nNoiseBytes) : (s.powerUp noise).address = s.nvm.read Config.addrNvmOffset := rfl
@[simp] theorem State.powerUp_slotCount (noise : Vector Byte Config.nNoiseBytes) : (s.powerUp noise).slotCount = 0 := rfl
@[simp] theorem State.powerUp_selectedSlot (noise : Vector Byte Config.nNoiseBytes) : (s.powerUp noise).selectedSlot = 0 := rfl
@[simp] theorem State.powerUp_nextSlot (noise : Vector Byte Config.nNoiseBytes) : (s.powerUp noise).nextSlot = 0 := rfl
@[simp] theorem State.powerUp_usedSlots (noise : Vector Byte Config.nNoiseBytes) : (s.powerUp noise).usedSlots = [] := rfl
@[simp] theorem State.powerUp_rxbuf (noise : Vector Byte Config.nNoiseBytes) : (s.powerUp noise).rxbuf = [] := rfl
@[simp] theorem State.powerUp_respondSuppressed (noise : Vector Byte Config.nNoiseBytes) : (s.powerUp noise).respondSuppressed = false := rfl
@[simp] theorem State.powerUp_acc (noise : Vector Byte Config.nNoiseBytes) : (s.powerUp noise).acc = seedAcc noise s.nvm := rfl
@[simp] theorem State.powerUp_digest (noise : Vector Byte Config.nNoiseBytes) : (s.powerUp noise).digest = unspecifiedDigest s.drawIndex := rfl
@[simp] theorem State.powerUp_nvm (noise : Vector Byte Config.nNoiseBytes) : (s.powerUp noise).nvm = s.nvm := rfl
@[simp] theorem State.powerUp_extState (noise : Vector Byte Config.nNoiseBytes) : (s.powerUp noise).extState = Config.extPowerUp s.extState := rfl
@[simp] theorem State.powerUp_tx (noise : Vector Byte Config.nNoiseBytes) : (s.powerUp noise).tx = s.tx := rfl
@[simp] theorem State.powerUp_port (noise : Vector Byte Config.nNoiseBytes) : (s.powerUp noise).port = none := rfl
@[simp] theorem State.powerUp_poolResult (noise : Vector Byte Config.nNoiseBytes) : (s.powerUp noise).poolResult = 0 := rfl
@[simp] theorem State.powerUp_events (noise : Vector Byte Config.nNoiseBytes) : (s.powerUp noise).events = s.events := rfl
@[simp] theorem State.powerUp_drawIndex (noise : Vector Byte Config.nNoiseBytes) : (s.powerUp noise).drawIndex = s.drawIndex + 1 := rfl
@[simp] theorem State.powerUp_hung (noise : Vector Byte Config.nNoiseBytes) : (s.powerUp noise).hung = false := rfl

/-! ## State.adoptExt -/

@[simp] theorem State.adoptExt_address (r : State) : (s.adoptExt r).address = s.address := rfl
@[simp] theorem State.adoptExt_slotCount (r : State) : (s.adoptExt r).slotCount = s.slotCount := rfl
@[simp] theorem State.adoptExt_selectedSlot (r : State) : (s.adoptExt r).selectedSlot = s.selectedSlot := rfl
@[simp] theorem State.adoptExt_nextSlot (r : State) : (s.adoptExt r).nextSlot = s.nextSlot := rfl
@[simp] theorem State.adoptExt_usedSlots (r : State) : (s.adoptExt r).usedSlots = s.usedSlots := rfl
@[simp] theorem State.adoptExt_rxbuf (r : State) : (s.adoptExt r).rxbuf = s.rxbuf := rfl
@[simp] theorem State.adoptExt_respondSuppressed (r : State) : (s.adoptExt r).respondSuppressed = r.respondSuppressed := rfl
@[simp] theorem State.adoptExt_acc (r : State) : (s.adoptExt r).acc = r.acc := rfl
@[simp] theorem State.adoptExt_digest (r : State) : (s.adoptExt r).digest = r.digest := rfl
@[simp] theorem State.adoptExt_nvm (r : State) : (s.adoptExt r).nvm = s.nvm := rfl
@[simp] theorem State.adoptExt_extState (r : State) : (s.adoptExt r).extState = r.extState := rfl
@[simp] theorem State.adoptExt_tx (r : State) : (s.adoptExt r).tx = r.tx := rfl
@[simp] theorem State.adoptExt_port (r : State) : (s.adoptExt r).port = s.port := rfl
@[simp] theorem State.adoptExt_poolResult (r : State) : (s.adoptExt r).poolResult = s.poolResult := rfl
@[simp] theorem State.adoptExt_events (r : State) : (s.adoptExt r).events = s.events := rfl
@[simp] theorem State.adoptExt_drawIndex (r : State) : (s.adoptExt r).drawIndex = r.drawIndex := rfl
@[simp] theorem State.adoptExt_hung (r : State) : (s.adoptExt r).hung = r.hung := rfl

/-! ## State.placeFrame -/

@[simp] theorem State.placeFrame_address (f : List Byte) : (s.placeFrame f).address =
    if operandByte f 0 = Config.broadcast then s.address else operandByte f 0 := rfl
@[simp] theorem State.placeFrame_slotCount (f : List Byte) : (s.placeFrame f).slotCount = s.slotCount := rfl
@[simp] theorem State.placeFrame_selectedSlot (f : List Byte) : (s.placeFrame f).selectedSlot = s.selectedSlot := rfl
@[simp] theorem State.placeFrame_nextSlot (f : List Byte) : (s.placeFrame f).nextSlot = s.nextSlot := rfl
@[simp] theorem State.placeFrame_usedSlots (f : List Byte) : (s.placeFrame f).usedSlots = s.usedSlots := rfl
@[simp] theorem State.placeFrame_rxbuf (f : List Byte) : (s.placeFrame f).rxbuf = f.dropLast := rfl
@[simp] theorem State.placeFrame_respondSuppressed (f : List Byte) : (s.placeFrame f).respondSuppressed = s.respondSuppressed := rfl
@[simp] theorem State.placeFrame_acc (f : List Byte) : (s.placeFrame f).acc = s.acc := rfl
@[simp] theorem State.placeFrame_digest (f : List Byte) : (s.placeFrame f).digest = s.digest := rfl
@[simp] theorem State.placeFrame_nvm (f : List Byte) : (s.placeFrame f).nvm = s.nvm := rfl
@[simp] theorem State.placeFrame_extState (f : List Byte) : (s.placeFrame f).extState = s.extState := rfl
@[simp] theorem State.placeFrame_tx (f : List Byte) : (s.placeFrame f).tx = s.tx := rfl
@[simp] theorem State.placeFrame_port (f : List Byte) : (s.placeFrame f).port = none := rfl
@[simp] theorem State.placeFrame_poolResult (f : List Byte) : (s.placeFrame f).poolResult = s.poolResult := rfl
@[simp] theorem State.placeFrame_events (f : List Byte) : (s.placeFrame f).events = .rxByte (f.getLastD 0) :: s.events := rfl
@[simp] theorem State.placeFrame_drawIndex (f : List Byte) : (s.placeFrame f).drawIndex = s.drawIndex := rfl
@[simp] theorem State.placeFrame_hung (f : List Byte) : (s.placeFrame f).hung = false := rfl

/-! ## State.placePool -/

@[simp] theorem State.placePool_address (select : BitVec 2) (operand : List Byte) : (s.placePool select operand).address = s.address := rfl
@[simp] theorem State.placePool_slotCount (select : BitVec 2) (operand : List Byte) : (s.placePool select operand).slotCount = s.slotCount := rfl
@[simp] theorem State.placePool_selectedSlot (select : BitVec 2) (operand : List Byte) : (s.placePool select operand).selectedSlot = s.selectedSlot := rfl
@[simp] theorem State.placePool_nextSlot (select : BitVec 2) (operand : List Byte) : (s.placePool select operand).nextSlot = s.nextSlot := rfl
@[simp] theorem State.placePool_usedSlots (select : BitVec 2) (operand : List Byte) : (s.placePool select operand).usedSlots = s.usedSlots := rfl
@[simp] theorem State.placePool_rxbuf (select : BitVec 2) (operand : List Byte) : (s.placePool select operand).rxbuf = s.rxbuf := rfl
@[simp] theorem State.placePool_respondSuppressed (select : BitVec 2) (operand : List Byte) : (s.placePool select operand).respondSuppressed = s.respondSuppressed := rfl
@[simp] theorem State.placePool_acc (select : BitVec 2) (operand : List Byte) : (s.placePool select operand).acc = s.acc := rfl
@[simp] theorem State.placePool_digest (select : BitVec 2) (operand : List Byte) : (s.placePool select operand).digest = s.digest := rfl
@[simp] theorem State.placePool_nvm (select : BitVec 2) (operand : List Byte) : (s.placePool select operand).nvm = s.nvm := rfl
@[simp] theorem State.placePool_extState (select : BitVec 2) (operand : List Byte) : (s.placePool select operand).extState = s.extState := rfl
@[simp] theorem State.placePool_tx (select : BitVec 2) (operand : List Byte) : (s.placePool select operand).tx = s.tx := rfl
@[simp] theorem State.placePool_port (select : BitVec 2) (operand : List Byte) : (s.placePool select operand).port = some ⟨select, operand⟩ := rfl
@[simp] theorem State.placePool_poolResult (select : BitVec 2) (operand : List Byte) : (s.placePool select operand).poolResult = s.poolResult := rfl
@[simp] theorem State.placePool_events (select : BitVec 2) (operand : List Byte) : (s.placePool select operand).events = s.events := rfl
@[simp] theorem State.placePool_drawIndex (select : BitVec 2) (operand : List Byte) : (s.placePool select operand).drawIndex = s.drawIndex := rfl
@[simp] theorem State.placePool_hung (select : BitVec 2) (operand : List Byte) : (s.placePool select operand).hung = false := rfl

end Sys2Proof.Machine
end

