-- ==== Sys2Proof/Laws/Ops.lean ====
section
/-! SUPPORT. What each shared operation can do, said once. -/

namespace Sys2Proof.Machine

@[simp] theorem State.pool_acc (s : State) : s.pool.acc = s.acc := rfl

@[simp] theorem State.pool_digest (s : State) : s.pool.digest = s.digest := rfl

@[simp] theorem State.beginRound_pool (s : State) (n : Byte) : (s.beginRound n).pool = s.pool := rfl

@[simp] theorem State.usedInsert_pool (s : State) (v : Byte) : (s.usedInsert v).pool = s.pool := rfl

@[simp] theorem State.setSuppression_pool (s : State) (d : DestClass) : (s.setSuppression d).pool = s.pool := rfl

/-- A reply leaves everything but `tx` alone. -/
theorem State.reply_eq (s : State) (c p : Byte) (data : List Byte) :
    s.reply c p data =
      { s with tx := if s.respondSuppressed then s.tx else s.tx ++ [frameOf s.address c p data] } := rfl

/-- An exception is a reply with the cause's text. -/
theorem State.raise_eq (s : State) (e : ErrorCause) (p : Byte) :
    s.raise e p = { s with tx := if s.respondSuppressed then s.tx else s.tx ++ [errorFrame s.address e p] } := rfl

theorem State.whenLive_live {s : State} (h : s.hung = false) (rest : State → State) : s.whenLive rest = rest s := by
  simp [State.whenLive, h]

theorem State.whenLive_hung {s : State} (h : s.hung = true) (rest : State → State) : s.whenLive rest = s := by
  simp [State.whenLive, h]

/-- The counter feed of a unit that is not hung. -/
theorem State.counterFeed_live {s : State} (h : s.hung = false) :
    s.counterFeed =
      { s with acc := hashUpdate s.acc [Config.counterSample s.drawIndex], drawIndex := s.drawIndex + 1 } := by
  simp [State.counterFeed, h]

/-- A hung unit never reaches the counter feed. -/
theorem State.counterFeed_of_hung {s : State} (h : s.hung = true) : s.counterFeed = s := by
  cases s
  simp_all [State.counterFeed]

/-- A property the rest keeps is kept by `whenLive`. -/
theorem State.whenLive_keeps {P : State → Prop} {s : State} {rest : State → State} (hs : P s)
    (hr : s.hung = false → P (rest s)) : P (s.whenLive rest) := by
  unfold State.whenLive
  split
  · exact hs
  · rename_i h
    exact hr (by simpa using h)

/-- When a start of round draws a new slot (43_arbitration.md R171). -/
theorem State.needsSlot_iff (s : State) :
    s.needsSlot = true ↔ s.selectedSlot = 0 ∨ s.slotCount < s.selectedSlot := by
  simp [State.needsSlot]

/-- The four reason strings are at most 17 bytes long (41_dispatch_and_reply.md R130). -/
theorem length_errorText (e : ErrorCause) : (errorText e).length ≤ 17 := by
  cases e <;> decide

/-- Every assembled frame with a payload that fits is good. -/
theorem frameGood_frameOf {a c p : Byte} {data : List Byte} (h : data.length ≤ 255) :
    frameGood (frameOf a c p data) = true := by
  simp [frameGood, declaredLength_frameOf h, length_frameOf, checksumOk_frameOf]

/-- What a reply adds to `tx`: nothing, or one good frame from the unit's own address (41_dispatch_and_reply.md R128). -/
theorem State.reply_tx_cases (s : State) {c p : Byte} {data : List Byte} (h : data.length ≤ 255) :
    (s.reply c p data).tx = s.tx ∨
      ∃ f, (s.reply c p data).tx = s.tx ++ [f] ∧ frameGood f = true ∧ f.head? = some s.address := by
  by_cases hs : s.respondSuppressed = true
  · exact .inl (by simp [hs])
  · exact .inr ⟨_, by simp only [State.reply_tx, hs]; rfl, frameGood_frameOf h, rfl⟩

/-- What an insertion does to the set (43_arbitration.md R174). -/
theorem State.usedInsert_cases (s : State) (v : Byte) :
    (s.usedInsert v).usedSlots = s.usedSlots ∨
      ((s.usedInsert v).usedSlots = s.usedSlots ++ [v] ∧ v ∉ s.usedSlots ∧ s.usedSlots.length < Config.usedCap) := by
  simp only [State.usedInsert_usedSlots]
  split
  · exact .inl rfl
  · split
    · exact .inr ⟨rfl, ‹_›, ‹_›⟩
    · exact .inl rfl

/-- The result of a mapped or unmapped extension request touches only what a handler may change (10_state.md R35). -/
theorem State.adoptExt_eq (s r : State) :
    s.adoptExt r =
      { s with
        respondSuppressed := r.respondSuppressed
        acc := r.acc
        digest := r.digest
        extState := r.extState
        tx := r.tx
        drawIndex := r.drawIndex
        hung := r.hung } := rfl

/-- The extension port changes nothing but what `adoptExt` takes over, so adopting its result is its result. -/
theorem State.adoptExt_extOrUnknown (s : State) (cmd : ExtCmd) (p : Byte) (payload : List Byte) :
    s.adoptExt (s.extOrUnknown cmd p payload) = s.extOrUnknown cmd p payload := by
  unfold State.extOrUnknown
  split
  · unfold State.extCall
    split
    · rfl
    · dsimp only
      split
      · rfl
      · unfold State.extFinish
        dsimp only
        split <;> rfl
  · rfl

/-- No operation stops the machine. -/
theorem exec_answers_next (i : Instr) (s : State) : ∃ t, exec i s = .next t := by
  cases i <;> exact ⟨_, rfl⟩

/-- No operation touches the accumulation buffer, the pending events or the pool port (40_frame_reception.md R96). -/
theorem exec_keeps_input {i : Instr} {s t : State} (h : exec i s = .next t) :
    t.rxbuf = s.rxbuf ∧ t.events = s.events ∧ t.port = s.port := by
  have whenLive {u : State} {rest : State → State} (hu : u.rxbuf = s.rxbuf ∧ u.events = s.events ∧ u.port = s.port)
      (hr : (rest u).rxbuf = s.rxbuf ∧ (rest u).events = s.events ∧ (rest u).port = s.port) :
      (u.whenLive rest).rxbuf = s.rxbuf ∧ (u.whenLive rest).events = s.events ∧ (u.whenLive rest).port = s.port :=
    State.whenLive_keeps (P := fun v => v.rxbuf = s.rxbuf ∧ v.events = s.events ∧ v.port = s.port) hu fun _ => hr
  cases i with
  | wrSearch d n =>
    cases h
    refine whenLive ?_ ?_ <;> split <;> exact ⟨rfl, rfl, rfl⟩
  | rdSearch d p =>
    cases h
    have ho : (s.observePoll d p).rxbuf = s.rxbuf ∧ (s.observePoll d p).events = s.events ∧
        (s.observePoll d p).port = s.port := by
      unfold State.observePoll; split <;> exact ⟨rfl, rfl, rfl⟩
    split
    · exact whenLive ho ho
    · exact ho
  | wrAddr2 d n sl =>
    cases h
    by_cases hp : sl = s.selectedSlot <;> simp [hp]
  | _ => cases h; exact ⟨rfl, rfl, rfl⟩

/-! ### No operation reads the accumulation buffer (40_frame_reception.md R96) -/

theorem State.extOrUnknown_withRxbuf (s : State) (cmd : ExtCmd) (p : Byte) (payload r : List Byte) :
    ({ s with rxbuf := r } : State).extOrUnknown cmd p payload = { s.extOrUnknown cmd p payload with rxbuf := r } := by
  have hp : ({ s with rxbuf := r } : State).pool = s.pool := rfl
  unfold State.extOrUnknown
  split
  · simp only [State.extCall, hp]
    split
    · rfl
    · split
      · rfl
      · unfold State.extFinish
        dsimp only
        split <;> rfl
  · rfl

theorem State.observePoll_withRxbuf (s : State) (d : LocalDest) (probed : Byte) (r : List Byte) :
    ({ s with rxbuf := r } : State).observePoll d probed = { s.observePoll d probed with rxbuf := r } := by
  unfold State.observePoll
  split <;> rfl

theorem State.whenLive_withRxbuf {s : State} {r : List Byte} {rest : State → State}
    (h : rest { s with rxbuf := r } = { rest s with rxbuf := r }) :
    ({ s with rxbuf := r } : State).whenLive rest = { s.whenLive rest with rxbuf := r } := by
  unfold State.whenLive
  split
  · rfl
  · exact h

/-- An operation does the same whatever the buffer holds. -/
theorem exec_withRxbuf {i : Instr} {s t : State} (r : List Byte) (h : exec i s = .next t) :
    exec i { s with rxbuf := r } = .next { t with rxbuf := r } := by
  cases i with
  | wrSearch d n =>
    cases h
    refine congrArg Host.Outcome.next ?_
    have e : (if (({ s with rxbuf := r } : State).beginRound n).needsSlot then
          (({ s with rxbuf := r } : State).beginRound n).takeSlot else ({ s with rxbuf := r } : State).beginRound n) =
        { (if (s.beginRound n).needsSlot then (s.beginRound n).takeSlot else s.beginRound n) with rxbuf := r } := by
      have hn : (({ s with rxbuf := r } : State).beginRound n).needsSlot = (s.beginRound n).needsSlot := rfl
      rw [hn]
      split <;> rfl
    rw [e]
    exact State.whenLive_withRxbuf rfl
  | rdSearch d p =>
    cases h
    refine congrArg Host.Outcome.next ?_
    rw [State.observePoll_withRxbuf]
    split
    · exact State.whenLive_withRxbuf (s := (s.observePoll d p).takeSlot) rfl
    · rfl
  | wrAddr2 d n sl =>
    cases h
    refine congrArg Host.Outcome.next ?_
    split <;> rfl
  | rdExt d p payload =>
    cases h
    refine congrArg Host.Outcome.next ?_
    rw [State.extOrUnknown_withRxbuf]
    rfl
  | wrExt d p payload =>
    cases h
    refine congrArg Host.Outcome.next ?_
    rw [State.extOrUnknown_withRxbuf]
    rfl
  | _ => cases h; rfl

end Sys2Proof.Machine
end

