-- ==== Sys2Proof/Laws/PerInstr.lean ====
section
/-! SUPPORT. The family FrameShape: the words of every well-formed operation have the length they declare
(30_encoding.md R61) or a select code that is issued (R70). -/

namespace Sys2Proof.Laws.FrameShape

open Sys2Proof Machine

/-- The words of a well-formed operation have exactly the length they declare. -/
def Statement (i : Instr) : Prop :=
  i.wellFormed = true → ∀ address nextSlot, (encode address nextSlot i).exact = true

theorem exact_frameOf {a c p : Byte} {data : List Byte} (h : data.length ≤ 255) :
    (declaredLength (frameOf a c p data) == some (frameOf a c p data).length) = true := by
  simp [declaredLength_frameOf h, length_frameOf]

theorem exact_payload {a c p : Byte} {data : List Byte} {x : Bool} (h : (x && payloadFits data) = true) :
    (declaredLength (frameOf a c p data) == some (frameOf a c p data).length) = true :=
  exact_frameOf (by simp [payloadFits] at h; exact h.2)

theorem snoopSearch (a v : Byte) : Statement (.snoopSearch a v) := fun _ _ _ => exact_frameOf (by simp)

theorem ignoreForeign (a c p : Byte) (payload : List Byte) (ck : Byte) :
    Statement (.ignoreForeign a c p payload ck) := by
  intro h address nextSlot
  simp only [Instr.wellFormed, payloadFits, Bool.and_eq_true, decide_eq_true_eq] at h
  have hl : (frameBody a c p payload ++ [ck]).length = payload.length + 5 := by simp [frameBody]
  simp only [encode, Encoded.exact, declaredLength_body h.1.2, hl, beq_self_eq_true]

theorem rdAddr (d : LocalDest) (payload : List Byte) : Statement (.rdAddr d payload) :=
  fun h _ _ => exact_payload h

theorem rdSearch (d : LocalDest) (probed : Byte) : Statement (.rdSearch d probed) :=
  fun _ _ _ => exact_frameOf (by simp)

theorem illLenRdSearch (d : LocalDest) (payload : List Byte) : Statement (.illLenRdSearch d payload) :=
  fun h _ _ => exact_payload (by simp only [Instr.wellFormed, Bool.and_eq_true] at h ⊢; exact h.1)

theorem rdExt (d : LocalDest) (p : Byte) (payload : List Byte) : Statement (.rdExt d p payload) :=
  fun h _ _ => exact_payload (by simp only [Instr.wellFormed, Bool.and_eq_true] at h ⊢; exact h.1)

theorem wrAddr1 (d : LocalDest) (new : Byte) : Statement (.wrAddr1 d new) := fun _ _ _ => exact_frameOf (by simp)

theorem wrAddr2 (d : LocalDest) (new slot : Byte) : Statement (.wrAddr2 d new slot) :=
  fun _ _ _ => exact_frameOf (by simp)

theorem illLenWrAddr (d : LocalDest) (payload : List Byte) : Statement (.illLenWrAddr d payload) :=
  fun h _ _ => exact_payload (by simp only [Instr.wellFormed, Bool.and_eq_true] at h ⊢; exact h.1.1)

theorem wrSearch (d : LocalDest) (slots : Byte) : Statement (.wrSearch d slots) :=
  fun _ _ _ => exact_frameOf (by simp)

theorem illLenWrSearch (d : LocalDest) (payload : List Byte) : Statement (.illLenWrSearch d payload) :=
  fun h _ _ => exact_payload (by simp only [Instr.wellFormed, Bool.and_eq_true] at h ⊢; exact h.1)

theorem wrExt (d : LocalDest) (p : Byte) (payload : List Byte) : Statement (.wrExt d p payload) :=
  fun h _ _ => exact_payload (by simp only [Instr.wellFormed, Bool.and_eq_true] at h ⊢; exact h.1)

theorem illCmd (d : LocalDest) (c p : Byte) (payload : List Byte) : Statement (.illCmd d c p payload) :=
  fun h _ _ => exact_payload (by simp only [Instr.wellFormed, Bool.and_eq_true] at h ⊢; exact h.1.1)

theorem rplRdAddr : Statement .rplRdAddr := fun _ _ _ => exact_frameOf (by simp)

theorem rplRdSearch : Statement .rplRdSearch := fun _ _ _ => exact_frameOf (by simp)

theorem rplWrAddr : Statement .rplWrAddr := fun _ _ _ => exact_frameOf (by simp)

theorem rplWrSearch : Statement .rplWrSearch := fun _ _ _ => exact_frameOf (by simp)

theorem rplExt (cmd : ExtCmd) (p : Byte) (data : List Byte) : Statement (.rplExt cmd p data) :=
  fun h _ _ => exact_frameOf (by simp [Instr.wellFormed, payloadFits] at h; exact h.1)

theorem errBadChecksum : Statement .errBadChecksum := fun _ _ _ => exact_frameOf (by decide)

theorem errUnhandledCommand : Statement .errUnhandledCommand := fun _ _ _ => exact_frameOf (by decide)

theorem errInvalidLength (p : Byte) : Statement (.errInvalidLength p) := fun _ _ _ => exact_frameOf (by decide)

theorem errInvalidParameter (p : Byte) : Statement (.errInvalidParameter p) := fun _ _ _ => exact_frameOf (by decide)

theorem feed (bytes : List Byte) : Statement (.feed bytes) := fun _ _ _ => rfl

theorem readDigest : Statement .readDigest := fun _ _ _ => rfl

theorem boundedInteger (max : Byte) : Statement (.boundedInteger max) := fun _ _ _ => rfl

end Sys2Proof.Laws.FrameShape
end

