-- ==== Sys2Proof/Laws/Reception.lean ====
section
/-! SUPPORT. What handling a frame, draining the buffer and one step can do, said once. -/

namespace Sys2Proof.Machine

/-- Byte 0 of a frame is its destination. -/
theorem operandByte_dest {bytes : List Byte} {f : Frame} (hf : parseFrame bytes = .ok f) :
    operandByte bytes 0 = f.dest := by
  rw [(parseFrame_ok hf).1]
  rfl

/-- The four things `handleFrame` can be (40_frame_reception.md R97): bytes that are no frame are absorbed, a frame runs its
operation, a bad unicast frame raises, a bad broadcast frame is dropped. The last three end with the counter feed. -/
theorem handleFrame_cases {f : List Byte} {s t : State} (h : handleFrame f s = .next t) :
    t = s ∨
    (∃ i u, decode s.address f = .ok i ∧
      exec i (s.setSuppression (classify s.address (operandByte f 0))) = .next u ∧ t = u.counterFeed) ∨
    (decode s.address f = .error .badChecksumUnicast ∧
      t = ((s.setSuppression .unicast).raise .frameIntegrity 0).counterFeed) ∨
    (decode s.address f = .error .badChecksumBroadcast ∧ t = (s.setSuppression .broadcast).counterFeed) := by
  unfold handleFrame at h
  split at h
  · rename_i i hi
    obtain ⟨u, hu⟩ := exec_answers_next i (s.setSuppression (classify s.address (operandByte f 0)))
    rw [hu] at h
    cases h
    exact .inr (.inl ⟨i, u, hi, hu, rfl⟩)
  · cases h; exact .inr (.inr (.inl ⟨‹_›, rfl⟩))
  · cases h; exact .inr (.inr (.inr ⟨‹_›, rfl⟩))
  · cases h; exact .inl rfl

/-- A frame always ends in a next state. -/
theorem handleFrame_answers_next (f : List Byte) (s : State) : ∃ t, handleFrame f s = .next t := by
  unfold handleFrame
  split
  · rename_i i _
    obtain ⟨u, hu⟩ := exec_answers_next i (s.setSuppression (classify s.address (operandByte f 0)))
    exact ⟨_, by rw [hu]; rfl⟩
  · exact ⟨_, rfl⟩
  · exact ⟨_, rfl⟩
  · exact ⟨_, rfl⟩

/-- A frame leaves the buffer it was taken from alone. -/
theorem handleFrame_keeps_input {f : List Byte} {s t : State} (h : handleFrame f s = .next t) :
    t.rxbuf = s.rxbuf ∧ t.events = s.events ∧ t.port = s.port := by
  rcases handleFrame_cases h with rfl | ⟨i, u, -, hu, rfl⟩ | ⟨-, rfl⟩ | ⟨-, rfl⟩
  · exact ⟨rfl, rfl, rfl⟩
  · simpa using exec_keeps_input hu
  · exact ⟨rfl, rfl, rfl⟩
  · exact ⟨rfl, rfl, rfl⟩

/-- A frame does the same whatever is left in the buffer. -/
theorem handleFrame_withRxbuf {f : List Byte} {s t : State} (r : List Byte) (h : handleFrame f s = .next t) :
    handleFrame f { s with rxbuf := r } = .next { t with rxbuf := r } := by
  unfold handleFrame at h ⊢
  dsimp only
  split at h
  · rename_i i _
    obtain ⟨u, hu⟩ := exec_answers_next i (s.setSuppression (classify s.address (operandByte f 0)))
    have hr := exec_withRxbuf r hu
    rw [hu] at h
    cases h
    exact congrArg closeFrame hr
  · cases h; rfl
  · cases h; rfl
  · cases h; rfl

/-- One turn of Drain (40_frame_reception.md R90). -/
theorem drain_succ (fuel : Nat) (s : State) :
    drain (fuel + 1) s =
      if isFrameComplete s.rxbuf && !s.hung then
        match handleFrame (s.rxbuf.take s.frontLength) { s with rxbuf := s.rxbuf.drop s.frontLength } with
        | .next t => drain fuel t
        | .fault r => .fault r
        | .refused r => .refused r
      else .next s := rfl

/-- What removing a frame and handling it both keep, draining keeps. -/
theorem drain_keeps {P : State → Prop} (hdrop : ∀ s n, P s → P { s with rxbuf := s.rxbuf.drop n })
    (hframe : ∀ f s t, P s → handleFrame f s = .next t → P t) :
    ∀ {fuel : Nat} {s t : State}, P s → drain fuel s = .next t → P t := by
  intro fuel
  induction fuel with
  | zero => intro s t hs h; cases h; exact hs
  | succ n ih =>
    intro s t hs h
    rw [drain_succ] at h
    split at h
    · obtain ⟨u, hu⟩ := handleFrame_answers_next (s.rxbuf.take s.frontLength)
        { s with rxbuf := s.rxbuf.drop s.frontLength }
      rw [hu] at h
      exact ih (hframe _ _ _ (hdrop _ _ hs) hu) h
    · cases h; exact hs

/-- The frame at the front of the buffer, and what a complete buffer's front length is. -/
theorem frontLength_le {s : State} (h : isFrameComplete s.rxbuf = true) :
    declaredLength s.rxbuf = some s.frontLength ∧ 5 ≤ s.frontLength ∧ s.frontLength ≤ s.rxbuf.length := by
  obtain ⟨n, hn, hle⟩ := (isFrameComplete_iff _).1 h
  have e : s.frontLength = n := by rw [State.frontLength, hn]; rfl
  refine ⟨by rw [e, hn], ?_, by rw [e]; exact hle⟩
  rw [e]
  revert hn
  match s.rxbuf with
  | [] | [_] | [_, _] | [_, _, _] => simp [declaredLength]
  | _ :: _ :: _ :: l :: _ => simp only [declaredLength, Option.some.injEq]; omega

/-- More turns than the buffer has bytes change nothing. -/
theorem drain_fuel {fuel more : Nat} {s : State} (h : s.rxbuf.length ≤ fuel) (hm : fuel ≤ more) :
    drain more s = drain fuel s := by
  induction fuel generalizing more s with
  | zero =>
    have he : s.rxbuf = [] := List.length_eq_zero_iff.1 (by omega)
    cases more with
    | zero => rfl
    | succ m =>
      rw [drain_succ, he]
      rfl
  | succ n ih =>
    obtain ⟨m, rfl⟩ : ∃ m, more = m + 1 := ⟨more - 1, by omega⟩
    rw [drain_succ, drain_succ]
    split
    · rename_i hc
      have hcomp : isFrameComplete s.rxbuf = true := by
        simp only [Bool.and_eq_true] at hc; exact hc.1
      obtain ⟨-, h5, hle⟩ := frontLength_le hcomp
      obtain ⟨u, hu⟩ := handleFrame_answers_next (s.rxbuf.take s.frontLength)
        { s with rxbuf := s.rxbuf.drop s.frontLength }
      have hub : u.rxbuf = s.rxbuf.drop s.frontLength := (handleFrame_keeps_input hu).1
      rw [hu]
      exact ih (by rw [hub, List.length_drop]; omega) (by omega)
    · rfl

/-- After as many turns as the buffer has bytes no complete frame is left, unless the unit hangs. -/
theorem drain_incomplete {fuel : Nat} {s t : State} (hl : s.rxbuf.length ≤ fuel) (h : drain fuel s = .next t) :
    t.hung = true ∨ isFrameComplete t.rxbuf = false := by
  induction fuel generalizing s with
  | zero =>
    injection h with e
    have he : s.rxbuf = [] := List.length_eq_zero_iff.1 (by omega)
    exact .inr (by rw [← e, he]; rfl)
  | succ n ih =>
    rw [drain_succ] at h
    split at h
    · rename_i hc
      have hcomp : isFrameComplete s.rxbuf = true := by
        simp only [Bool.and_eq_true] at hc; exact hc.1
      obtain ⟨-, h5, hle⟩ := frontLength_le hcomp
      obtain ⟨u, hu⟩ := handleFrame_answers_next (s.rxbuf.take s.frontLength)
        { s with rxbuf := s.rxbuf.drop s.frontLength }
      have hub : u.rxbuf = s.rxbuf.drop s.frontLength := (handleFrame_keeps_input hu).1
      rw [hu] at h
      exact ih (by rw [hub, List.length_drop]; omega) h
    · rename_i hc
      injection h with e
      subst e
      cases hcomp : isFrameComplete s.rxbuf with
      | false => exact .inr rfl
      | true => left; simpa [hcomp] using hc

/-- Draining always ends in a next state. -/
theorem drain_answers_next (fuel : Nat) (s : State) : ∃ t, drain fuel s = .next t := by
  induction fuel generalizing s with
  | zero => exact ⟨s, rfl⟩
  | succ n ih =>
    rw [drain_succ]
    split
    · obtain ⟨u, hu⟩ := handleFrame_answers_next (s.rxbuf.take s.frontLength)
        { s with rxbuf := s.rxbuf.drop s.frontLength }
      rw [hu]
      exact ih u
    · exact ⟨s, rfl⟩

/-- What taking an event can do: wait, power up, lose the event to a hang, flush, or receive bytes. -/
theorem takeEvent_cases {s t : State} (h : takeEvent s = .next t) :
    (s.events = [] ∧ t = s) ∨
    ∃ e rest, s.events = e :: rest ∧
      ((∃ noise, e = .reset noise ∧ t = ({ s with events := rest } : State).powerUp noise) ∨
       (s.hung = true ∧ t = { s with events := rest }) ∨
       (s.hung = false ∧ e = .rxFlush ∧ t = { s with events := rest, rxbuf := [] }) ∨
       (s.hung = false ∧
         ∃ bs, (e = .rxBytes bs ∨ ∃ b, e = .rxByte b ∧ bs = [b] ∧ s.rxbuf.length < Config.rxbufCap) ∧
           receive bs { s with events := rest } = .next t)) := by
  unfold takeEvent at h
  split at h
  · cases h; exact .inl ⟨‹_›, rfl⟩
  · rename_i e rest he
    refine .inr ⟨e, rest, he, ?_⟩
    split at h
    · rename_i hh
      cases e with
      | reset noise => cases h; exact .inl ⟨noise, rfl, rfl⟩
      | rxByte b => cases h; exact .inr (.inl ⟨hh, rfl⟩)
      | rxBytes bs => cases h; exact .inr (.inl ⟨hh, rfl⟩)
      | rxFlush => cases h; exact .inr (.inl ⟨hh, rfl⟩)
    · rename_i hh
      have hl : s.hung = false := by simpa using hh
      cases e with
      | reset noise => cases h; exact .inl ⟨noise, rfl, rfl⟩
      | rxFlush => cases h; exact .inr (.inr (.inl ⟨hl, rfl, rfl⟩))
      | rxBytes bs => exact .inr (.inr (.inr ⟨hl, bs, .inl rfl, h⟩))
      | rxByte b =>
        simp only [handleLive] at h
        split at h
        · exact .inr (.inr (.inr ⟨hl, [b], .inr ⟨b, rfl, rfl, ‹_›⟩, h⟩))
        · cases h

/-- What a step can do: serve the request on the pool port, or take an event, the port being empty or the unit hung. -/
theorem step_cases {s t : State} (h : step s = .next t) :
    (s.hung = false ∧ ∃ r i, s.port = some r ∧ decodePool r.select r.operand = .ok i ∧
      exec i { s with port := none } = .next t) ∨
    ((s.port = none ∨ s.hung = true) ∧ takeEvent s = .next t) := by
  unfold step nextAction at h
  split at h
  · rename_i r hr
    split at h
    · exact .inr ⟨.inr ‹_›, h⟩
    · rename_i hh
      unfold servePool at h
      split at h
      · exact .inl ⟨by simpa using hh, r, _, hr, ‹_›, h⟩
      · cases h
  · exact .inr ⟨.inl ‹_›, h⟩

end Sys2Proof.Machine
end

