-- ==== Sys2Proof/Tests/Slice0.lean ====
section
/-! SUPPORT. Tests. Frames and expected results come from 95_test_vectors.md or are worked out by hand from the encodings
of 30_encoding.md; the source is named at each group. -/

namespace Sys2Proof.Tests

open Sys2Proof Sys2Proof.Machine

/-! ## WellFormed refuses an ill-formed term for each check -/

theorem test_wf_snoop_at_broadcast : (Instr.snoopSearch 0xFF 0x04).wellFormed = false := by decide

theorem test_wf_foreign_at_broadcast : (Instr.ignoreForeign 0xFF 0x01 0x01 [] 0x01).wellFormed = false := by decide

theorem test_wf_foreign_snoop_shape : (Instr.ignoreForeign 0x06 0x01 0x08 [0x04] 0x14).wellFormed = false := by decide

theorem test_wf_foreign_bad_snoop_checksum : (Instr.ignoreForeign 0x06 0x01 0x08 [0x04] 0x15).wellFormed = true := by
  decide

theorem test_wf_unicast_broadcast_byte : (Instr.wrAddr1 (.unicast 0xFF) 0x09).wellFormed = false := by decide

theorem test_wf_payload_256 : (Instr.rdAddr .broadcast (List.replicate 256 0)).wellFormed = false := by decide +kernel

theorem test_wf_payload_255 : (Instr.rdAddr .broadcast (List.replicate 255 0)).wellFormed = true := by decide +kernel

theorem test_wf_rdsearch_length : (Instr.illLenRdSearch .broadcast [0x04]).wellFormed = false := by decide

theorem test_wf_wraddr_length_1 : (Instr.illLenWrAddr .broadcast [0x04]).wellFormed = false := by decide

theorem test_wf_wraddr_length_2 : (Instr.illLenWrAddr .broadcast [0x04, 0x05]).wellFormed = false := by decide

theorem test_wf_wrsearch_length : (Instr.illLenWrSearch .broadcast [0x04]).wellFormed = false := by decide

theorem test_wf_rdext_core_params :
    (Instr.rdExt .broadcast 0x01 []).wellFormed = false ∧ (Instr.rdExt .broadcast 0x08 []).wellFormed = false := by decide

theorem test_wf_wrext_core_params :
    (Instr.wrExt .broadcast 0x01 []).wellFormed = false ∧ (Instr.wrExt .broadcast 0x08 []).wellFormed = false := by decide

theorem test_wf_known_commands :
    (Instr.illCmd .broadcast 0x01 0x00 []).wellFormed = false ∧ (Instr.illCmd .broadcast 0x81 0x00 []).wellFormed = false := by
  decide

theorem test_wf_reply_core_params :
    (Instr.rplExt .read 0x01 []).wellFormed = false ∧ (Instr.rplExt .write 0x08 []).wellFormed = false := by decide

theorem test_wf_reply_data_256 : (Instr.rplExt .read 0x10 (List.replicate 256 0)).wellFormed = false := by decide +kernel

theorem test_fits_refuses_other_units :
    (Instr.wrAddr1 (.unicast 0x06) 0x09).fits 0x05 = false ∧ (Instr.snoopSearch 0x05 0x04).fits 0x05 = false := by decide

/-! ## Decoding: words written out from 30_encoding.md R60, R66 to R70, R72 -/

/-- Row 1 and row 4 share their header word; the destination class tells them apart. -/
theorem test_decode_snoop_and_poll :
    decode 0x05 [0b00000110, 0b00000001, 0b00001000, 0b00000001, 0x04, 0x14] = .ok (.snoopSearch 0x06 0x04) ∧
    decode 0x06 [0b00000110, 0b00000001, 0b00001000, 0b00000001, 0x04, 0x14] =
      .ok (.rdSearch (.unicast 0x06) 0x04) := by decide

theorem test_decode_ignore_foreign :
    decode 0x05 [0x06, 0x81, 0x08, 0x01, 0x04, 0x94] = .ok (.ignoreForeign 0x06 0x81 0x08 [0x04] 0x94) ∧
    decode 0x05 [0x06, 0x01, 0x08, 0x01, 0x04, 0x15] = .ok (.ignoreForeign 0x06 0x01 0x08 [0x04] 0x15) := by decide

theorem test_decode_rd_addr :
    decode 0x05 [0b00000101, 0b00000001, 0b00000001, 0b00000000, 0x07] = .ok (.rdAddr (.unicast 0x05) []) ∧
    decode 0x05 [0b11111111, 0b00000001, 0b00000001, 0b00000000, 0x01] = .ok (.rdAddr .broadcast []) := by decide

theorem test_decode_ill_len_rd_search :
    decode 0x05 [0xFF, 0x01, 0x08, 0x00, 0x08] = .ok (.illLenRdSearch .broadcast []) := by decide

theorem test_decode_rd_ext : decode 0x05 [0x05, 0x01, 0x20, 0x00, 0x26] = .ok (.rdExt (.unicast 0x05) 0x20 []) := by decide

theorem test_decode_wr_addr :
    decode 0x05 [0b00000101, 0b10000001, 0b00000001, 0b00000001, 0x09, 0x91] = .ok (.wrAddr1 (.unicast 0x05) 0x09) ∧
    decode 0x05 [0b11111111, 0b10000001, 0b00000001, 0b00000010, 0x30, 0x05, 0xB8] =
      .ok (.wrAddr2 .broadcast 0x30 0x05) ∧
    decode 0x05 [0x05, 0x81, 0x01, 0x00, 0x87] = .ok (.illLenWrAddr (.unicast 0x05) []) := by decide

theorem test_decode_wr_search :
    decode 0x05 [0b11111111, 0b10000001, 0b00001000, 0b00000001, 0x08, 0x91] = .ok (.wrSearch .broadcast 0x08) ∧
    decode 0x05 [0x05, 0x81, 0x08, 0x02, 0x04, 0x04, 0x98] = .ok (.illLenWrSearch (.unicast 0x05) [0x04, 0x04]) := by
  decide

theorem test_decode_wr_ext :
    decode 0x05 [0xFF, 0x81, 0x20, 0x01, 0x05, 0xA6] = .ok (.wrExt .broadcast 0x20 [0x05]) := by decide

theorem test_decode_ill_cmd :
    decode 0x05 [0x05, 0x80, 0x77, 0x00, 0xFC] = .ok (.illCmd (.unicast 0x05) 0x80 0x77 []) := by decide

/-- 95_test_vectors.md sections 3.3, 4 and 5.1. -/
theorem test_decode_rejects_by_name :
    decode 0x05 [0x05, 0x01, 0x01] = .error .tooShort ∧
    decode 0x05 [0xFF, 0x01, 0x08, 0x01, 0x03] = .error .incomplete ∧
    decode 0x05 [0x05, 0x01, 0x01, 0x00, 0x07, 0x05] = .error .trailingBytes ∧
    decode 0x05 [0x05, 0x01, 0x01, 0x00, 0x08] = .error .badChecksumUnicast ∧
    decode 0x05 [0xFF, 0x81, 0x01, 0x01, 0x09, 0x00] = .error .badChecksumBroadcast := by decide

/-- Emitted frames of 95_test_vectors.md sections 5.1, 6.1, 6.2, 5.3 for a unit at 0x05 whose `next_slot` is 4. -/
theorem test_decode_replies :
    decodeReply 0x05 0x04 [0b00000101, 0b00000001, 0b00000001, 0b00000001, 0x05, 0x0D] = .ok .rplRdAddr ∧
    decodeReply 0x05 0x04 [0b00000101, 0b00000001, 0b00001000, 0b00000001, 0x04, 0x13] = .ok .rplRdSearch ∧
    decodeReply 0x05 0x04 [0b00000101, 0b10000001, 0b00000001, 0b00000000, 0x87] = .ok .rplWrAddr ∧
    decodeReply 0x05 0x04 [0b00000101, 0b10000001, 0b00001000, 0b00000000, 0x8E] = .ok .rplWrSearch ∧
    decodeReply 0x05 0x04 [0x05, 0x01, 0x10, 0x02, 0xAB, 0x77, 0x3A] = .ok (.rplExt .read 0x10 [0xAB, 0x77]) := by decide

/-- The error frames of 95_test_vectors.md section 8. -/
theorem test_decode_error_replies :
    decodeReply 0x05 0x00 [0x05, 0xFF, 0x00, 0x0C, 0x42, 0x61, 0x64, 0x20, 0x63, 0x68, 0x65, 0x63, 0x6B, 0x73, 0x75, 0x6D,
      0x8A] = .ok .errBadChecksum ∧
    decodeReply 0x05 0x00 [0x05, 0xFF, 0x00, 0x11, 0x55, 0x6E, 0x68, 0x61, 0x6E, 0x64, 0x6C, 0x65, 0x64, 0x20, 0x63, 0x6F,
      0x6D, 0x6D, 0x61, 0x6E, 0x64, 0xA7] = .ok .errUnhandledCommand ∧
    decodeReply 0x05 0x00 [0x05, 0xFF, 0x08, 0x0E, 0x49, 0x6E, 0x76, 0x61, 0x6C, 0x69, 0x64, 0x20, 0x6C, 0x65, 0x6E, 0x67,
      0x74, 0x68, 0x83] = .ok (.errInvalidLength 0x08) ∧
    decodeReply 0x05 0x00 [0x05, 0xFF, 0x03, 0x11, 0x49, 0x6E, 0x76, 0x61, 0x6C, 0x69, 0x64, 0x20, 0x70, 0x61, 0x72, 0x61,
      0x6D, 0x65, 0x74, 0x65, 0x72, 0xC0] = .ok (.errInvalidParameter 0x03) := by decide

theorem test_decode_reply_rejects_by_name :
    decodeReply 0x05 0x04 [0x06, 0x01, 0x01, 0x01, 0x05, 0x0E] = .error .foreignReply ∧
    decodeReply 0x05 0x04 [0x05, 0x01, 0x01, 0x01, 0x05, 0x0E] = .error .badReplyChecksum ∧
    decodeReply 0x05 0x04 [0x05, 0x02, 0x01, 0x00, 0x08] = .error .noReplyForm := by decide

theorem test_decode_pool :
    decodePool 0b00 [0x2A] = .ok (.feed [0x2A]) ∧ decodePool 0b01 [] = .ok .readDigest ∧
    decodePool 0b10 [0x07] = .ok (.boundedInteger 0x07) ∧ decodePool 0b11 [] = .error .unusedPoolSelect ∧
    decodePool 0b10 [] = .error .poolOperand := by decide

/-- The reason strings as characters (60_exceptions.md R230). -/
theorem test_error_texts :
    (errorText .frameIntegrity).map BitVec.toNat = "Bad checksum".toList.map Char.toNat ∧
    (errorText .unknownCommand).map BitVec.toNat = "Unhandled command".toList.map Char.toNat ∧
    (errorText .unknownParameter).map BitVec.toNat = "Invalid parameter".toList.map Char.toNat ∧
    (errorText .lengthMismatch).map BitVec.toNat = "Invalid length".toList.map Char.toNat := by decide

/-- No two rows of the map are the same, and the first match decides between overlapping rows (R72). -/
theorem test_operation_map :
    operationMap.Nodup ∧ firstRow true 0x06010801 = some .snoopSearch ∧ firstRow false 0x06010801 = some .rdSearch ∧
    firstRow false 0x06010802 = some .illLenRdSearch ∧ firstRow false 0x05FF0000 = some .illCmd := by decide

/-- Table words of spec/opcode_table.json, read as log 10 says. -/
theorem test_table_words :
    decodeTableWord 32 0x00010100 = some (.rdAddr (.unicast 0x00) []) ∧
    decodeTableWord 32 0x00010801 = some (.rdSearch (.unicast 0x00) 0x00) ∧
    decodeTableWord 32 0x00010000 = some (.rdExt (.unicast 0x00) 0x00 []) ∧
    decodeTableWord 32 0x00810102 = some (.wrAddr2 (.unicast 0x00) 0x00 0x00) ∧
    decodeTableWord 32 0x00810801 = some (.wrSearch (.unicast 0x00) 0x00) ∧
    decodeTableWord 32 0xFF000000 = some (.illCmd .broadcast 0x00 0x00 []) ∧
    decodeTableWord 8 0x00 = some (.feed [0x00]) ∧ decodeTableWord 8 0x01 = some .readDigest ∧
    decodeTableWord 8 0x02 = some (.boundedInteger 0x00) ∧ decodeTableWord 8 0x03 = none := by decide

theorem test_table_words_run :
    (∃ t, step (State.reset.withFetchWord 32 0x00010801) = .next t) ∧
    (∃ t, step (State.reset.withFetchWord 32 0x00010000) = .next t) ∧
    (∃ t, step (State.reset.withFetchWord 32 0x00FF000C) = .next t) ∧
    (∃ t, step (State.reset.withFetchWord 32 0xFF810101) = .next t) ∧
    (∃ t, step (State.reset.withFetchWord 8 0x02) = .next t) := ⟨⟨_, rfl⟩, ⟨_, rfl⟩, ⟨_, rfl⟩, ⟨_, rfl⟩, ⟨_, rfl⟩⟩

/-! ## Small runs (95_test_vectors.md sections 3 to 6) -/

/-- A unit at 0x05 after reset. -/
def unit5 : State := { State.reset with address := 0x05 }

/-- What a unit sends while it handles one frame. -/
def sends (s : State) (f : List Byte) : List (List Byte) :=
  match handleFrame f s with
  | .next t => t.tx
  | .fault _ => []
  | .refused _ => []

/-- A register after one frame, the unit's own value where the frame stops it. -/
def reads {α : Type} (s : State) (f : List Byte) (g : State → α) : α :=
  match handleFrame f s with
  | .next t => g t
  | .fault _ => g s
  | .refused _ => g s

/-- Section 3.1. -/
theorem test_checksum :
    checksum [0x05, 0x01, 0x01, 0x00] = 0x07 ∧ checksum [0xFF, 0x01, 0x08, 0x01, 0x03] = 0x0C ∧
    checksum [0x80, 0x80] = 0x00 ∧ checksum [0xFF, 0xFF, 0xFF, 0xFF] = 0xFC := by decide

/-- Section 3.3. -/
theorem test_frame_complete :
    isFrameComplete [0x05, 0x01, 0x01, 0x00] = false ∧ isFrameComplete [0x05, 0x01, 0x01, 0x00, 0x07] = true ∧
    isFrameComplete [0xFF, 0x01, 0x08, 0x01, 0x03] = false ∧
    isFrameComplete [0x05, 0x01, 0x01, 0x05, 0x01, 0x01, 0x00, 0x07] = false ∧
    isFrameComplete ([0x05, 0x01, 0x01, 0xFF] ++ List.replicate 255 0xFF) = false ∧
    isFrameComplete ([0x05, 0x01, 0x01, 0xFF] ++ List.replicate 256 0xFF) = true := by decide +kernel

/-- Section 7.2. -/
theorem test_mask_for :
    maskFor 1 = 0x01 ∧ maskFor 2 = 0x03 ∧ maskFor 5 = 0x07 ∧ maskFor 16 = 0x1F ∧ maskFor 100 = 0x7F ∧ maskFor 128 = 0xFF ∧
    maskFor 255 = 0xFF := by decide

/-- Section 7.3. -/
theorem test_scan_digest :
    scanDigest 1 [0xFE, 0x01, 0x02, 0x03] = some 0 ∧ scanDigest 5 [0xF6, 0x0F, 0x23, 0x00] = some 3 ∧
    scanDigest 16 [0x1F, 0x31, 0x10, 0x00] = some 16 ∧ scanDigest 100 [0xE5, 0x7F, 0x64, 0x00] = some 100 ∧
    scanDigest 254 [0xFF, 0xFF, 0xFF, 0xFE] = some 254 ∧ scanDigest 2 [0x03, 0x07, 0xFF, 0xFB] = none := by decide

/-- Section 4: eight frames from the reset state. -/
theorem test_routing :
    sends unit5 [0x05, 0x01, 0x01, 0x00, 0x07] = [[0x05, 0x01, 0x01, 0x01, 0x05, 0x0D]] ∧
    sends unit5 [0x06, 0x01, 0x01, 0x00, 0x08] = [] ∧ sends unit5 [0xFF, 0x01, 0x01, 0x00, 0x01] = [] ∧
    reads unit5 [0xFF, 0x01, 0x01, 0x00, 0x02] State.respondSuppressed = true ∧
    reads unit5 [0x06, 0x01, 0x08, 0x01, 0x04, 0x15] State.usedSlots = [] := ⟨rfl, rfl, rfl, rfl, rfl⟩

/-- Section 8: FrameIntegrityError comes before UnknownCommand. -/
theorem test_bad_checksum_first :
    sends unit5 [0x05, 0x02, 0x01, 0x00, 0x09] =
      [[0x05, 0xFF, 0x00, 0x0C, 0x42, 0x61, 0x64, 0x20, 0x63, 0x68, 0x65, 0x63, 0x6B, 0x73, 0x75, 0x6D, 0x8A]] := rfl

/-- Section 5.2. -/
theorem test_unhandled_command :
    sends unit5 [0x05, 0x80, 0x77, 0x00, 0xFC] =
      [[0x05, 0xFF, 0x00, 0x11, 0x55, 0x6E, 0x68, 0x61, 0x6E, 0x64, 0x6C, 0x65, 0x64, 0x20, 0x63, 0x6F, 0x6D, 0x6D, 0x61,
        0x6E, 0x64, 0xA7]] := rfl

/-- Section 5.1. -/
theorem test_address_writes :
    sends unit5 [0x05, 0x81, 0x01, 0x01, 0x09, 0x91] = [[0x09, 0x81, 0x01, 0x00, 0x8B]] ∧
    sends unit5 [0xFF, 0x81, 0x01, 0x01, 0x09, 0x8B] = [] ∧
    reads unit5 [0xFF, 0x81, 0x01, 0x01, 0x09, 0x8B] State.address = 0x09 ∧
    sends unit5 [0xFF, 0x81, 0x01, 0x02, 0x30, 0x00, 0xB3] = [[0x30, 0x81, 0x01, 0x00, 0xB2]] ∧
    sends unit5 [0x05, 0x81, 0x01, 0x02, 0x30, 0x03, 0xBC] = [] := ⟨rfl, rfl, rfl, rfl, rfl⟩

/-- Section 5.1: ILL_LEN_WR_ADDR. -/
theorem test_address_length :
    sends unit5 [0x05, 0x81, 0x01, 0x03, 0x01, 0x02, 0x03, 0x90] =
      [[0x05, 0xFF, 0x01, 0x0E, 0x49, 0x6E, 0x76, 0x61, 0x6C, 0x69, 0x64, 0x20, 0x6C, 0x65, 0x6E, 0x67, 0x74, 0x68, 0x7C]] :=
  rfl

/-- Sections 6.1 e, f and 6.2 a, b: zero slots and one slot draw nothing. -/
theorem test_rounds_without_draws :
    sends unit5 [0x05, 0x81, 0x08, 0x01, 0x00, 0x8F] = [[0x05, 0x81, 0x08, 0x00, 0x8E]] ∧
    reads unit5 [0x05, 0x81, 0x08, 0x01, 0x01, 0x90] State.selectedSlot = 0x01 ∧
    sends unit5 [0xFF, 0x01, 0x08, 0x01, 0x00, 0x09] = [[0x05, 0x01, 0x08, 0x01, 0x00, 0x0F]] ∧
    reads unit5 [0x05, 0x01, 0x08, 0x01, 0x00, 0x0F] State.usedSlots = [0x00] := ⟨rfl, rfl, rfl, rfl⟩

/-- Section 6.1 c, d: a carried-over slot equal to the count stays, a larger one is drawn again. -/
theorem test_round_keeps_slot :
    reads { unit5 with selectedSlot := 5, nextSlot := 5 } [0xFF, 0x81, 0x08, 0x01, 0x05, 0x8E] State.selectedSlot = 5 ∧
    State.needsSlot { unit5 with selectedSlot := 5, slotCount := 4 } = true := ⟨rfl, rfl⟩

/-- Sections 6.2 f, g: the length gates of parameter 0x08. -/
theorem test_search_length :
    sends unit5 [0x05, 0x01, 0x08, 0x00, 0x0E] =
      [[0x05, 0xFF, 0x08, 0x0E, 0x49, 0x6E, 0x76, 0x61, 0x6C, 0x69, 0x64, 0x20, 0x6C, 0x65, 0x6E, 0x67, 0x74, 0x68, 0x83]] ∧
    sends unit5 [0x05, 0x81, 0x08, 0x02, 0x04, 0x04, 0x98] =
      [[0x05, 0xFF, 0x08, 0x0E, 0x49, 0x6E, 0x76, 0x61, 0x6C, 0x69, 0x64, 0x20, 0x6C, 0x65, 0x6E, 0x67, 0x74, 0x68, 0x83]] :=
  ⟨rfl, rfl⟩

/-- Section 5.2: parameter 0x03 that is not mapped. -/
theorem test_unmapped_parameter (h : Config.extMapped .read 0x03 = false) :
    sends unit5 [0x05, 0x01, 0x03, 0x00, 0x09] =
      [[0x05, 0xFF, 0x03, 0x11, 0x49, 0x6E, 0x76, 0x61, 0x6C, 0x69, 0x64, 0x20, 0x70, 0x61, 0x72, 0x61, 0x6D, 0x65, 0x74,
        0x65, 0x72, 0xC0]] := by
  show (State.counterFeed (State.adoptExt _ (State.extOrUnknown _ .read 0x03 []))).tx = _
  unfold State.extOrUnknown
  rw [h]
  rfl

/-- Section 3.4 c, with the first two of its three frames, as one chunk: the second is handled after the first, and the
address it writes is the one its reply carries. -/
theorem test_back_to_back_frames :
    (match receive [0x05, 0x01, 0x01, 0x00, 0x07, 0x05, 0x81, 0x01, 0x01, 0x09, 0x91] unit5 with
      | .next t => t.tx
      | .fault _ => []
      | .refused _ => []) =
      [[0x05, 0x01, 0x01, 0x01, 0x05, 0x0D], [0x09, 0x81, 0x01, 0x00, 0x8B]] := rfl

theorem test_nvm_write_then_read (v : Byte) : (Memory.write [] Config.addrNvmOffset v).read Config.addrNvmOffset = v := by
  rw [Memory.read_write _ _ _ _ rfl, if_pos rfl]

theorem test_reset_memory_canonical : State.reset.nvm.wf = true := rfl

theorem test_step_waits_without_events : step State.reset = .next State.reset := rfl

/-! ## Witnesses: states and operands that meet the hypotheses of each statement -/

/-- A read request for the address of `unit5` (section 2, E1). -/
def readFrame : List Byte := [0x05, 0x01, 0x01, 0x00, 0x07]

/-- `unit5` with one event pending. -/
def unit5With (e : Event) : State := { unit5 with events := [e] }

/-- `unit5` with a request on the pool port. -/
def unit5Asked (select : BitVec 2) (operand : List Byte) : State := { unit5 with port := some ⟨select, operand⟩ }

/-- Noise of the length a power-up takes. -/
def someNoise : Vector Byte Config.nNoiseBytes := Vector.replicate _ 0x11

/-- `unit5` one byte short of `readFrame`, its last byte pending. -/
def unit5Ready : State := { unit5With (.rxByte 0x07) with rxbuf := [0x05, 0x01, 0x01, 0x00] }

theorem witness_EncodeThenDecodeGivesTheOperation :
    (Instr.wrAddr2 (.unicast 0x05) 0x21 0x08).wellFormed = true ∧ (Instr.wrAddr2 (.unicast 0x05) 0x21 0x08).fits 0x05 = true ∧
    (Instr.ignoreForeign 0x06 0x01 0x08 [0x04] 0x15).wellFormed = true ∧
    (Instr.ignoreForeign 0x06 0x01 0x08 [0x04] 0x15).fits 0x05 = true ∧
    (Instr.rplExt .write 0x00 [0x01]).wellFormed = true := by decide

theorem witness_DecodedFrameEncodesBack : decode 0x05 readFrame = .ok (.rdAddr (.unicast 0x05) []) := by decide

theorem witness_DecodeTakesTheFirstMatchingRow :
    (List.replicate 255 (0 : Byte)).length ≤ 255 ∧ ([] : List Byte).length ≤ 255 := by decide +kernel

theorem witness_UnusedPoolSelectIsRefused :
    (unit5Asked 3 []).hung = false ∧ (unit5Asked 3 []).port = some ⟨3, []⟩ := ⟨rfl, rfl⟩

theorem witness_OneChangedBitFailsTheChecksum :
    checksumOk readFrame = true ∧ 0 < readFrame.length ∧ 4 < readFrame.length ∧ 7 < 8 := by decide

/-- A short buffer, and one that lacks the last byte of the longest frame. -/
theorem witness_RxByteStoresOrHandlesTheWholeBuffer :
    unit5Ready.hung = false ∧ unit5Ready.port = none ∧ isFrameComplete unit5Ready.rxbuf = false ∧
    unit5Ready.events = .rxByte 0x07 :: [] ∧
    isFrameComplete ([0x05, 0x01, 0x01, 0xFF] ++ List.replicate 255 0) = false := ⟨rfl, rfl, rfl, rfl, by decide +kernel⟩

theorem witness_ChunkedDeliveryEqualsByteDelivery :
    unit5.hung = false ∧ isFrameComplete unit5.rxbuf = false ∧
    ∃ t, receiveEach (readFrame ++ [0x06]) unit5 = .next t ∧ t.hung = false := ⟨rfl, rfl, _, rfl, rfl⟩

theorem witness_FlushOnlyEmptiesTheBuffer :
    (unit5With .rxFlush).hung = false ∧ (unit5With .rxFlush).port = none ∧ (unit5With .rxFlush).events = .rxFlush :: [] :=
  ⟨rfl, rfl, rfl⟩

theorem witness_StepRunsTheDecodedOperation :
    (unit5Ready.hung = false ∧ unit5Ready.port = none ∧ isFrameComplete unit5Ready.rxbuf = false ∧
      unit5Ready.events = .rxByte 0x07 :: [] ∧
      decode unit5Ready.address (unit5Ready.rxbuf ++ [0x07]) = .ok (.rdAddr (.unicast 0x05) [])) ∧
    (unit5Asked 2 [0x00]).hung = false ∧ (unit5Asked 2 [0x00]).port = some ⟨2, [0x00]⟩ ∧
      decodePool 2 [0x00] = .ok (.boundedInteger 0x00) :=
  ⟨⟨rfl, rfl, rfl, rfl, by decide⟩, rfl, rfl, by decide⟩

/-- A frame that draws nothing, and one for each way a frame can decode. -/
theorem witness_EveryFrameEndsWithOneCounterFeed :
    unit5.hung = false ∧ declaredLength readFrame = some readFrame.length ∧
    (∀ i, decode unit5.address readFrame = .ok i →
      i.requestRow ≠ some .wrSearch ∧ i.requestRow ≠ some .rdSearch ∧ i.requestRow ≠ some .rdExt ∧
        i.requestRow ≠ some .wrExt) ∧
    (∃ t, handleFrame readFrame unit5 = .next t) ∧
    decode unit5.address [0x05, 0x01, 0x01, 0x00, 0x08] = .error .badChecksumUnicast ∧
    decode unit5.address [0xFF, 0x01, 0x01, 0x00, 0x02] = .error .badChecksumBroadcast := by
  refine ⟨rfl, rfl, fun i h => ?_, ⟨_, rfl⟩, by decide, by decide⟩
  have hd : decode unit5.address readFrame = .ok (.rdAddr (.unicast 0x05) []) := by decide
  rw [hd] at h
  cases h
  decide

theorem witness_BadUnicastChecksumDrawsAReply :
    declaredLength [0x05, 0x01, 0x01, 0x00, 0x08] = some 5 ∧
    classify unit5.address (operandByte [0x05, 0x01, 0x01, 0x00, 0x08] 0) = .unicast ∧
    checksumOk [0x05, 0x01, 0x01, 0x00, 0x08] = false := by decide

theorem witness_BadBroadcastOrForeignChecksumIsDropped :
    (declaredLength [0xFF, 0x01, 0x01, 0x00, 0x02] = some 5 ∧
      classify unit5.address (operandByte [0xFF, 0x01, 0x01, 0x00, 0x02] 0) ≠ .unicast ∧
      checksumOk [0xFF, 0x01, 0x01, 0x00, 0x02] = false) ∧
    declaredLength [0x06, 0x01, 0x01, 0x00, 0x09] = some 5 ∧
      classify unit5.address (operandByte [0x06, 0x01, 0x01, 0x00, 0x09] 0) ≠ .unicast ∧
      checksumOk [0x06, 0x01, 0x01, 0x00, 0x09] = false := by decide

/-- Both clauses: the frame is foreign, and it does change the set. -/
theorem witness_ForeignFrameOnlyEverSnoops :
    classify unit5.address (operandByte [0x06, 0x01, 0x08, 0x01, 0x04, 0x14] 0) = .foreign ∧
    declaredLength [0x06, 0x01, 0x08, 0x01, 0x04, 0x14] = some 6 ∧
    ∃ t, handleFrame [0x06, 0x01, 0x08, 0x01, 0x04, 0x14] unit5 = .next t ∧ t.usedSlots ≠ unit5.usedSlots := by
  refine ⟨by decide, rfl, _, rfl, ?_⟩
  have h : 0 < Config.usedCap := Nat.succ_pos _
  simp [unit5, State.reset, State.usedInsert, State.setSuppression, h]

theorem witness_HandleFrameFollowsTheRoutingPseudocode : declaredLength readFrame = some readFrame.length := rfl

/-- A unicast and a broadcast write. -/
theorem witness_AddressWriteReclassifiesTheNextFrame :
    (0x09 : Byte) ≠ 0xFF ∧ (0x05 = unit5.address ∨ (0x05 : Byte) = 0xFF) ∧
    (∃ t, handleFrame (frameOf 0x05 0x81 0x01 [0x09]) unit5 = .next t) ∧
    ∃ t, handleFrame (frameOf 0xFF 0x81 0x01 [0x09]) unit5 = .next t :=
  ⟨by decide, .inl rfl, ⟨_, rfl⟩, _, rfl⟩

/-- One frame for each of the four errors, and a silent one; a parameter that is not mapped, and a handler's length error,
where the unit has one. -/
theorem witness_ErroredFrameChangesNoRegister :
    unit5.frameError [0x05, 0x01, 0x01, 0x00, 0x08] = some (.frameIntegrity, 0) ∧
    unit5.frameError [0x05, 0x80, 0x77, 0x00, 0xFC] = some (.unknownCommand, 0) ∧
    unit5.frameError [0x05, 0x81, 0x01, 0x00, 0x87] = some (.lengthMismatch, 0x01) ∧
    unit5.frameError [0x05, 0x01, 0x08, 0x00, 0x0E] = some (.lengthMismatch, 0x08) ∧
    unit5.frameError [0xFF, 0x01, 0x08, 0x00, 0x08] = some (.lengthMismatch, 0x08) ∧
    (Config.extMapped .read 0x03 = false →
      unit5.frameError [0x05, 0x01, 0x03, 0x00, 0x09] = some (.unknownParameter, 0x03)) ∧
    ∃ t, handleFrame [0x05, 0x80, 0x77, 0x00, 0xFC] unit5 = .next t := by
  refine ⟨rfl, rfl, rfl, rfl, rfl, fun h => ?_, _, rfl⟩
  show unit5.extError .read 0x03 [] = _
  rw [State.extError, h]
  rfl

theorem witness_AtMostOneGoodFramePerFrame : ∃ t, handleFrame readFrame unit5 = .next t ∧ t.tx ≠ unit5.tx :=
  ⟨_, rfl, by decide +kernel⟩

/-- A broadcast promotion to the sentinel slot 0 is answered (section 5.1). -/
theorem witness_BroadcastRepliesOnlyAfterOptOut :
    operandByte [0xFF, 0x81, 0x01, 0x02, 0x30, 0x00, 0xB3] 0 = 0xFF ∧
    ∃ t, handleFrame [0xFF, 0x81, 0x01, 0x02, 0x30, 0x00, 0xB3] unit5 = .next t ∧ t.tx ≠ unit5.tx :=
  ⟨rfl, _, rfl, by decide +kernel⟩

theorem witness_WriteAddressStoresAndAcknowledges : unit5.nvm.wf = true := rfl

theorem witness_PromotionIsHonouredOnlyOnMatch :
    unit5.nvm.wf = true ∧ (0x00 : Byte) = unit5.selectedSlot ∧ (0x03 : Byte) ≠ unit5.selectedSlot :=
  ⟨rfl, rfl, by decide⟩

theorem witness_NvmChangesOnlyAtTheAddressOffset :
    (∃ t, step unit5Ready = .next t) ∧ Config.addrNvmOffset + 1 ≠ Config.addrNvmOffset :=
  ⟨⟨_, rfl⟩, Nat.succ_ne_self _⟩

/-- The three clauses: a known slot, a new slot with room, a new slot without room. -/
theorem witness_SnoopRecordsTheAdvertisedSlot :
    (0x04 : Byte) ∈ ({ unit5 with usedSlots := [0x04] } : State).usedSlots ∧
    ((0x04 : Byte) ∉ unit5.usedSlots ∧ unit5.usedSlots.length < Config.usedCap) ∧
    (0x04 : Byte) ∉ ({ unit5 with usedSlots := List.replicate Config.usedCap 0 } : State).usedSlots ∧
    Config.usedCap ≤ ({ unit5 with usedSlots := List.replicate Config.usedCap 0 } : State).usedSlots.length := by
  refine ⟨by simp, ⟨by simp [unit5, State.reset], Nat.succ_pos _⟩, ?_, by simp⟩
  intro h
  exact absurd (List.eq_of_mem_replicate h) (by decide)

theorem witness_IgnoredForeignFrameHasNoEffect :
    (Instr.ignoreForeign 0x06 0x02 0x55 [] 0x5D).wellFormed = true ∧ (0x06 : Byte) ≠ unit5.address := by decide

/-- A carried-over slot equal to the slot count, the boundary of its range. -/
theorem witness_StartRoundKeepsAValidSlot :
    ({ unit5 with selectedSlot := 5 } : State).hung = false ∧ ({ unit5 with selectedSlot := 5 } : State).selectedSlot ≠ 0 ∧
    ({ unit5 with selectedSlot := 5 } : State).selectedSlot ≤ 5 := ⟨rfl, by decide, by decide⟩

/-- No slot, and a slot one above the count. -/
theorem witness_StartRoundSelectsASlot :
    unit5.hung = false ∧ (unit5.selectedSlot = 0 ∨ (4 : Byte) < unit5.selectedSlot) ∧
    (({ unit5 with selectedSlot := 5 } : State).selectedSlot = 0 ∨
      (4 : Byte) < ({ unit5 with selectedSlot := 5 } : State).selectedSlot) := ⟨rfl, .inl rfl, .inr (by decide)⟩

theorem witness_UnmatchedPollIsSilent : (0x03 : Byte) ≠ unit5.selectedSlot := by decide

/-- A broadcast and a unicast poll. -/
theorem witness_MatchedPollRedrawsAndReplies :
    unit5.hung = false ∧
    (∃ u r, u = (if LocalDest.broadcast = .broadcast then unit5 else unit5.usedInsert unit5.selectedSlot) ∧
      r = selectSlot unit5.slotCount u.usedSlots unit5.pool) ∧
    ∃ u r, u = (if LocalDest.unicast 0x05 = .broadcast then unit5 else unit5.usedInsert unit5.selectedSlot) ∧
      r = selectSlot unit5.slotCount u.usedSlots unit5.pool := ⟨rfl, ⟨_, _, rfl, rfl⟩, _, _, rfl, rfl⟩

/-- A round of one slot is a draw without a digest. -/
theorem selectSlot_one (q : Pool) : selectSlot 1 [] q = ⟨some 1, q⟩ := rfl

/-- The sentinel and a slot of the round. -/
theorem witness_SelectedSlotIsFreeAndInRange :
    (selectSlot 0 [] unit5.pool).value = some 0 ∧ (selectSlot 1 [] unit5.pool).value = some 1 := ⟨rfl, rfl⟩

theorem selectLoop_one_used (tries : Nat) (q : Pool) : (selectLoop 1 [1] tries q).value = some 0 := by
  induction tries generalizing q with
  | zero => rfl
  | succ n ih =>
    simp only [selectLoop, drawSlot_one]
    exact ih q

theorem witness_FullSetExhaustsTheSelection :
    (∀ v : Byte, 1 ≤ v → v ≤ 1 → v ∈ [(1 : Byte)]) ∧ ∃ v, (selectSlot 1 [1] unit5.pool).value = some v := by
  refine ⟨fun v h1 h2 => ?_, 0, selectLoop_one_used _ _⟩
  have : v = 1 := by bv_omega
  simp [this]

/-- A round of one slot, and the longest one. -/
theorem witness_FreshRoundTakesTheFirstCandidate :
    (1 : Byte) ≠ 0 ∧ (drawSlot 1 unit5.pool).value = some 1 ∧ (0xFF : Byte) ≠ 0 ∧ (0xFF : Byte) ≠ 1 :=
  ⟨by decide, rfl, by decide, by decide⟩

theorem afterSlots_one (k : Nat) (q : Pool) : Pool.afterSlots 1 k q = q := by
  induction k generalizing q with
  | zero => rfl
  | succ n ih => rw [Pool.afterSlots, drawSlot_one]; exact ih q

/-- A first candidate that is free, and a round of one slot whose one slot is used in every attempt. -/
theorem witness_SelectionTakesTheFirstFreeCandidate :
    ((1 : Byte) ≠ 0 ∧ 0 < Config.retryBound ∧ (∀ j, j < 0 → AttemptFails 1 [] unit5.pool j) ∧
      (drawSlot 1 (Pool.afterSlots 1 0 unit5.pool)).value = some 1 ∧ (1 : Byte) ∉ ([] : List Byte)) ∧
    ∀ j, j < Config.retryBound → AttemptFails 1 [1] unit5.pool j := by
  refine ⟨⟨by decide, Nat.succ_pos _, fun j hj => absurd hj (Nat.not_lt_zero j), rfl, by simp⟩, fun j _ => ?_⟩
  exact ⟨1, by simp, by rw [afterSlots_one, drawSlot_one]⟩

theorem witness_ExtensionKeepsTheCoreState :
    ∃ t, exec (.rdExt (.unicast 0x05) 0x10 []) unit5 = .next t ∨ exec (.wrExt (.unicast 0x05) 0x10 []) unit5 = .next t :=
  ⟨_, .inl rfl⟩

theorem witness_MaskIsTheSmallestCover : (1 : Byte) ≠ 0 ∧ (0xFF : Byte) ≠ 0 ∧ (1 : Nat) ≤ 2 ^ 1 - 1 := by decide

/-- For `max` 255 the first byte of the first digest is accepted, whatever the hash. -/
theorem witness_BoundedIntegerTakesTheFirstAcceptableByte :
    unit5.hung = false ∧ (0xFF : Byte) ≠ 0 ∧
    (∀ m, m < 0 → scanDigest 0xFF (Pool.after m unit5.pool).readDigest.digest = none) ∧
    ∃ c, scanDigest 0xFF (Pool.after 0 unit5.pool).readDigest.digest = some c := by
  refine ⟨rfl, by decide, fun m hm => absurd hm (Nat.not_lt_zero m), ?_⟩
  cases hs : scanDigest 0xFF (Pool.after 0 unit5.pool).readDigest.digest with
  | some c => exact ⟨c, rfl⟩
  | none =>
    exfalso
    have hall := scanDigest_none.1 hs
    have hlen : (Pool.after 0 unit5.pool).readDigest.digest.length = Config.digestLen := length_hashFinal _
    cases hd : (Pool.after 0 unit5.pool).readDigest.digest with
    | nil => rw [hd] at hlen; exact absurd hlen (Nat.succ_ne_zero _).symm
    | cons b rest =>
      refine hall b (by rw [hd]; simp) ?_
      have := (b &&& maskFor 0xFF).isLt
      rw [BitVec.le_def]
      exact Nat.le_of_lt_succ this

theorem witness_OnlyAnEndlessDrawHangsTheUnit :
    unit5Ready.hung = false ∧ (∃ t, step unit5Ready = .next t) ∧ ∃ t, exec (.boundedInteger 0xFF) unit5 = .next t :=
  ⟨rfl, ⟨_, rfl⟩, _, rfl⟩

/-- A power-up, and a received byte that completes a frame. -/
theorem witness_OnlyFramesAndPowerUpFeedThePool :
    (unit5With (.reset someNoise)).port = none ∧ (∃ t, step (unit5With (.reset someNoise)) = .next t) ∧
    unit5Ready.port = none ∧ ∃ t, step unit5Ready = .next t := ⟨rfl, ⟨_, rfl⟩, rfl, _, rfl⟩

theorem witness_FramesFeedOnlyDigestsAndTheCounter :
    unit5.hung = false ∧ declaredLength [0xFF, 0x81, 0x08, 0x01, 0x08, 0x91] = some 6 ∧
    decode unit5.address [0xFF, 0x81, 0x08, 0x01, 0x08, 0x91] = .ok (.wrSearch .broadcast 0x08) ∧
    ∃ t, handleFrame [0xFF, 0x81, 0x08, 0x01, 0x08, 0x91] unit5 = .next t := ⟨rfl, rfl, by decide, _, rfl⟩

/-- A received byte and a power-up. -/
theorem witness_HungUnitWaitsForPowerUp :
    (({ unit5Ready with hung := true } : State).hung = true ∧
      ({ unit5Ready with hung := true } : State).events = .rxByte 0x07 :: [] ∧
      ∀ noise, Event.rxByte 0x07 ≠ .reset noise) ∧
    ({ unit5With (.reset someNoise) with hung := true } : State).hung = true ∧
      ({ unit5With (.reset someNoise) with hung := true } : State).events = .reset someNoise :: [] :=
  ⟨⟨rfl, rfl, fun _ => by simp⟩, rfl, rfl⟩

theorem witness_PowerUpReachesTheResetValues :
    (unit5With (.reset someNoise)).port = none ∧
    (unit5With (.reset someNoise)).events = .reset someNoise :: [] := ⟨rfl, rfl⟩

/-- The state after reset, about to receive a byte, meets the invariant and takes a step. -/
theorem witness_StepKeepsTheInvariant :
    ({ State.reset with events := [.rxByte 0x05] } : State).Inv ∧
    ∃ t, step { State.reset with events := [.rxByte 0x05] } = .next t := by
  refine ⟨⟨fun _ => .inl rfl, rfl, Nat.zero_le _, List.nodup_nil, fun _ => rfl, rfl, rfl, ?_, rfl, ?_⟩, _, rfl⟩
  · simp [State.reset, unspecifiedDigest]
  · simp [State.reset]

theorem witness_RegistersChangeOnlyByTheirWriters :
    ∃ t, exec (.wrAddr1 (.unicast 0x05) 0x09) unit5 = .next t ∧ t.address ≠ unit5.address := ⟨_, rfl, by decide⟩

end Sys2Proof.Tests
end

section
/-! PROOFS. Which registers an operation may write (10_state.md): the frames of the extension port and of the two search
operations, and from them the statements on registers. -/

namespace Sys2Proof.Proofs.Registers

open Sys2Proof Sys2Proof.Machine

/-! ## The flag after an extension request -/

/-- `Done` with `clear` opts out of suppression; without it the flag stays (41_dispatch_and_reply.md R132). -/
theorem extFinish_respondSuppressed (s : State) (cmd : ExtCmd) (p : Byte) (r : ExtDone) :
    (s.extFinish cmd p r).respondSuppressed = if r.clear then false else s.respondSuppressed := by
  unfold State.extFinish
  cases r.out <;> rfl

/-- A handler leaves the flag or clears it; a length error and an endless pool call leave it. -/
theorem extCall_respondSuppressed (s : State) (cmd : ExtCmd) (p : Byte) (payload : List Byte) :
    (s.extCall cmd p payload).respondSuppressed = s.respondSuppressed ∨
      (s.extCall cmd p payload).respondSuppressed = false := by
  unfold State.extCall
  split
  · exact .inl rfl
  · dsimp only
    split
    · exact .inl rfl
    · rw [extFinish_respondSuppressed]
      split
      · exact .inr rfl
      · exact .inl rfl

/-- An unmapped parameter raises its error and leaves the flag; a mapped one follows its handler. -/
theorem extOrUnknown_respondSuppressed (s : State) (cmd : ExtCmd) (p : Byte) (payload : List Byte) :
    (s.extOrUnknown cmd p payload).respondSuppressed = s.respondSuppressed ∨
      (s.extOrUnknown cmd p payload).respondSuppressed = false := by
  unfold State.extOrUnknown
  split
  · exact extCall_respondSuppressed s cmd p payload
  · exact .inl rfl

/-! ## What the search operations leave unchanged -/

/-- Starting a round leaves address, NVM and flag (43_arbitration.md R171). -/
theorem execWrSearch_frame {slots : Byte} {s t : State} (h : execWrSearch slots s = .next t) :
    t.address = s.address ∧ t.nvm = s.nvm ∧ t.respondSuppressed = s.respondSuppressed := by
  cases h
  split <;>
    exact State.whenLive_keeps
      (P := fun v => v.address = s.address ∧ v.nvm = s.nvm ∧ v.respondSuppressed = s.respondSuppressed)
      ⟨rfl, rfl, rfl⟩ fun _ => ⟨rfl, rfl, rfl⟩

/-- Observing a poll writes at most the set of used slots. -/
theorem observePoll_eq (s : State) (d : LocalDest) (probed : Byte) :
    s.observePoll d probed = { s with usedSlots := (s.observePoll d probed).usedSlots } := by
  unfold State.observePoll
  split <;> rfl

/-- A slot poll leaves address, NVM and the slot count, and can only clear the flag (43_arbitration.md R172). -/
theorem execRdSearch_frame {d : LocalDest} {probed : Byte} {s t : State} (h : execRdSearch d probed s = .next t) :
    t.address = s.address ∧ t.nvm = s.nvm ∧ t.slotCount = s.slotCount ∧
      (t.respondSuppressed = s.respondSuppressed ∨ t.respondSuppressed = false) := by
  cases h
  rw [observePoll_eq]
  split
  · exact State.whenLive_keeps
      (P := fun v => v.address = s.address ∧ v.nvm = s.nvm ∧ v.slotCount = s.slotCount ∧
        (v.respondSuppressed = s.respondSuppressed ∨ v.respondSuppressed = false))
      ⟨rfl, rfl, rfl, .inl rfl⟩ fun _ => ⟨rfl, rfl, rfl, .inr rfl⟩
  · exact ⟨rfl, rfl, rfl, .inl rfl⟩

/-! ## The obligations -/

/-- Settles O37: `adoptExt` takes over no core register, and the port leaves or clears the flag. -/
theorem extensionKeepsTheCoreState : Obligations.ExtensionKeepsTheCoreState := by
  intro d p payload s t h
  obtain ⟨cmd, rfl⟩ : ∃ cmd, t = s.adoptExt (s.extOrUnknown cmd p payload) := by
    rcases h with h | h
    · cases h; exact ⟨.read, rfl⟩
    · cases h; exact ⟨.write, rfl⟩
  exact ⟨rfl, rfl, rfl, rfl, rfl, rfl, rfl, extOrUnknown_respondSuppressed s cmd p payload⟩

/-- Settles O49, operation by operation: the frames above for the search and extension operations; for every other one the
field laws of the updates it is made of. -/
theorem registersChangeOnlyByTheirWriters : Obligations.RegistersChangeOnlyByTheirWriters := by
  intro i s t h
  have input := exec_keeps_input h
  cases i with
  | wrSearch d slots =>
    obtain ⟨haddr, hnvm, hflag⟩ := execWrSearch_frame h
    simp [Instr.requestRow, input, haddr, hnvm, hflag]
  | rdSearch d probed =>
    obtain ⟨haddr, hnvm, hcount, hflag⟩ := execRdSearch_frame h
    simpa [Instr.requestRow, input, haddr, hnvm, hcount] using hflag.resolve_left
  | rdExt d p payload =>
    cases h
    simpa [Instr.requestRow] using (extOrUnknown_respondSuppressed s .read p payload).resolve_left
  | wrExt d p payload =>
    cases h
    simpa [Instr.requestRow] using (extOrUnknown_respondSuppressed s .write p payload).resolve_left
  | wrAddr2 d new slot =>
    cases h
    by_cases hslot : slot = s.selectedSlot
    · simp [Instr.requestRow, hslot]
    · simp [Instr.requestRow, hslot]
  | snoopSearch a v | wrAddr1 d new => cases h; simp [Instr.requestRow]
  | feed bytes | readDigest | boundedInteger max => cases h; simp
  | _ => cases h; simp

/-- Settles O46: the accumulator is seeded from the noise of the first power-up, `firstNoise`. -/
theorem resetStateHoldsTheResetValues : Obligations.ResetStateHoldsTheResetValues :=
  ⟨rfl, rfl, rfl, rfl, rfl, rfl, rfl, firstNoise, rfl⟩

end Sys2Proof.Proofs.Registers
end

section
/-! PROOFS. The NVM and the errors of a frame (20_memory.md): the only cell a step may write is that of the address
(R42), an address write holds for the very next frame (R50), and a frame that ends in an error writes no register
(R52). -/

namespace Sys2Proof.Proofs.StoreAndErrors

open Sys2Proof Sys2Proof.Machine Sys2Proof.Proofs.Registers

/-! ## The one cell a step may write -/

/-- A write leaves every other cell alone, whether or not the list is canonical (20_memory.md R42). -/
theorem read_write_other (m : Memory) {off o : Nat} (v : Byte) (h : o ≠ off) : (m.write off v).read o = m.read o := by
  unfold Memory.write
  split
  · exact Memory.read_erase_other m h
  · rw [Memory.read_put, if_neg h]

/-- An operation leaves address and NVM alone, or stores one new address in both (42_address_register.md R154). -/
theorem exec_address_nvm {i : Instr} {s t : State} (h : exec i s = .next t) :
    (t.address = s.address ∧ t.nvm = s.nvm) ∨ t.nvm = s.nvm.write Config.addrNvmOffset t.address := by
  cases i with
  | wrAddr1 d new => cases h; exact .inr rfl
  | wrAddr2 d new slot =>
    cases h
    split
    · exact .inr rfl
    · exact .inl ⟨rfl, rfl⟩
  | wrSearch d slots =>
    obtain ⟨haddr, hnvm, -⟩ := execWrSearch_frame h
    exact .inl ⟨haddr, hnvm⟩
  | rdSearch d probed =>
    obtain ⟨haddr, hnvm, -⟩ := execRdSearch_frame h
    exact .inl ⟨haddr, hnvm⟩
  | _ => cases h; exact .inl ⟨rfl, rfl⟩

section OtherCell

variable {off : Nat} (hoff : off ≠ Config.addrNvmOffset) {s t : State}
include hoff

theorem exec_read_other {i : Instr} (h : exec i s = .next t) : t.nvm.read off = s.nvm.read off := by
  rcases exec_address_nvm h with ⟨-, hnvm⟩ | hnvm
  · rw [hnvm]
  · rw [hnvm, read_write_other _ _ hoff]

theorem handleFrame_read_other {f : List Byte} (h : handleFrame f s = .next t) : t.nvm.read off = s.nvm.read off := by
  rcases handleFrame_cases h with rfl | ⟨i, u, -, hu, rfl⟩ | ⟨-, rfl⟩ | ⟨-, rfl⟩
  · rfl
  · simpa using exec_read_other hoff hu
  · rfl
  · rfl

theorem receive_read_other {bs : List Byte} (h : receive bs s = .next t) : t.nvm.read off = s.nvm.read off :=
  drain_keeps (P := fun u => u.nvm.read off = s.nvm.read off) (fun _ _ hu => hu)
    (fun _ _ _ hu hv => (handleFrame_read_other hoff hv).trans hu) (s := { s with rxbuf := s.rxbuf ++ bs }) rfl h

theorem takeEvent_read_other (h : takeEvent s = .next t) : t.nvm.read off = s.nvm.read off := by
  rcases takeEvent_cases h with
    ⟨-, rfl⟩ | ⟨_, rest, -, ⟨noise, -, rfl⟩ | ⟨-, rfl⟩ | ⟨-, -, rfl⟩ | ⟨-, bs, -, hreceive⟩⟩
  · rfl
  · rfl
  · rfl
  · rfl
  · exact receive_read_other (s := { s with events := rest }) hoff hreceive

end OtherCell

/-- Settles O26: a step serves a pool request or takes an event, and neither touches another cell. -/
theorem nvmChangesOnlyAtTheAddressOffset : Obligations.NvmChangesOnlyAtTheAddressOffset := by
  intro s t h off hoff
  rcases step_cases h with ⟨-, r, i, -, -, hexec⟩ | ⟨-, htake⟩
  · exact exec_read_other (s := { s with port := none }) hoff hexec
  · exact takeEvent_read_other hoff htake

/-! ## The frame after an address write -/

/-- A whole frame to the unit's own address is a request to it alone. -/
theorem decode_frameOf_unicast {address c p : Byte} {data : List Byte} (ha : address ≠ 0xFF)
    (hd : data.length ≤ 255) :
    decode address (frameOf address c p data) = .ok (decodeLocal (.unicast address) c p data) := by
  rw [decode_unicast (parseFrame_frameOf hd) (classify_eq_unicast.2 ⟨ha, rfl⟩), if_pos (checksumOk_frameOf ..)]

/-- A whole frame to the broadcast address is a request to every unit. -/
theorem decode_frameOf_broadcast {address c p : Byte} {data : List Byte} (hd : data.length ≤ 255) :
    decode address (frameOf 0xFF c p data) = .ok (decodeLocal .broadcast c p data) := by
  rw [decode_broadcast (parseFrame_frameOf hd) (classify_eq_broadcast.2 rfl), if_pos (checksumOk_frameOf ..)]

/-- A plain address write to the unit or to all units is decoded as WR_ADDR1 (42_address_register.md R151). -/
theorem decode_addressWrite {address dest new : Byte} (h : dest = address ∨ dest = 0xFF) :
    ∃ d, decode address (frameOf dest 0x81 0x01 [new]) = .ok (.wrAddr1 d new) := by
  have hlen : [new].length ≤ 255 := by simp
  by_cases hb : dest = 0xFF
  · subst hb
    exact ⟨_, decode_frameOf_broadcast hlen⟩
  · obtain rfl := h.resolve_right hb
    exact ⟨_, decode_frameOf_unicast hb hlen⟩

/-- A frame that decodes runs its operation and feeds the counter (40_frame_reception.md R97). -/
theorem handleFrame_of_decode {f : List Byte} {s : State} {i : Instr} (h : decode s.address f = .ok i) :
    handleFrame f s = closeFrame (exec i (s.setSuppression (classify s.address (operandByte f 0)))) := by
  simp only [handleFrame, h]

/-- Settles O16: the write stores the new address, and a frame to the unit's own address is a request to it. -/
theorem addressWriteReclassifiesTheNextFrame : Obligations.AddressWriteReclassifiesTheNextFrame := by
  intro s t new dest hnew hdest h
  obtain ⟨d, hdecode⟩ := decode_addressWrite (new := new) hdest
  rw [handleFrame_of_decode hdecode] at h
  have haddress : t.address = new := by cases h; rfl
  rw [haddress]
  exact decode_frameOf_unicast hnew (Nat.zero_le _)

/-! ## A frame that ends in an error -/

/-- The state `s` after it raised `e` with parameter byte `p`, `k` being the number of its next draw: an extension
handler that ends in a length error has been called, which counts as one draw (log 3). -/
def raisedAt (s : State) (e : ErrorCause) (p : Byte) (k : Nat) : State := { s.raise e p with drawIndex := k }

theorem extCall_of_lengthError {s : State} {cmd : ExtCmd} {p : Byte} {payload : List Byte}
    (h : Config.extHandle s.drawIndex cmd p payload s.address s.extState = .lengthError) :
    s.extCall cmd p payload = raisedAt s .lengthMismatch p (s.drawIndex + 1) := by
  simp only [State.extCall, h]
  rfl

/-- The errors of the extension port: the handler's own length error, or an unmapped parameter
(41_dispatch_and_reply.md R124, R132). -/
theorem extOrUnknown_of_extError {s : State} {cmd : ExtCmd} {p q : Byte} {payload : List Byte} {e : ErrorCause}
    (h : s.extError cmd p payload = some (e, q)) :
    ∃ k, (k = s.drawIndex ∨ k = s.drawIndex + 1) ∧ s.extOrUnknown cmd p payload = raisedAt s e q k := by
  unfold State.extError at h
  split at h
  case isTrue hmapped =>
    split at h
    case h_1 hhandle =>
      cases h
      exact ⟨_, .inr rfl, by rw [State.extOrUnknown, if_pos hmapped, extCall_of_lengthError hhandle]⟩
    case h_2 => cases h
  case isFalse hunmapped =>
    cases h
    exact ⟨_, .inl rfl, by rw [State.extOrUnknown, if_neg hunmapped]; rfl⟩

/-- An operation that ends in an error is that error's reply and nothing else (60_exceptions.md R236, R241). -/
theorem exec_of_operationError {i : Instr} {s : State} {e : ErrorCause} {p : Byte}
    (h : s.operationError i = some (e, p)) :
    ∃ k, (k = s.drawIndex ∨ k = s.drawIndex + 1) ∧ exec i s = .next (raisedAt s e p k) := by
  have ext {cmd : ExtCmd} {q : Byte} {payload : List Byte} (hext : s.extError cmd q payload = some (e, p)) :
      ∃ k, (k = s.drawIndex ∨ k = s.drawIndex + 1) ∧
        Host.Outcome.next (s.adoptExt (s.extOrUnknown cmd q payload)) =
          (.next (raisedAt s e p k) : Host.Outcome State Fault Refusal) := by
    obtain ⟨k, hk, hraised⟩ := extOrUnknown_of_extError hext
    exact ⟨k, hk, by rw [State.adoptExt_extOrUnknown, hraised]⟩
  cases i with
  | rdExt d q payload => exact ext h
  | wrExt d q payload => exact ext h
  | _ => cases h <;> exact ⟨_, .inl rfl, rfl⟩

/-- Which error an operation ends in does not depend on the flag. -/
theorem setSuppression_operationError (s : State) (dest : DestClass) (i : Instr) :
    (s.setSuppression dest).operationError i = s.operationError i := by
  cases i <;> rfl

/-- Bytes that are no frame are rejected for their length, never for a checksum (30_encoding.md R61). -/
theorem parseFrame_error {bytes : List Byte} {r : DecodeReject} (h : parseFrame bytes = .error r) :
    r = .tooShort ∨ r = .incomplete ∨ r = .trailingBytes := by
  unfold parseFrame at h
  split at h
  · split_ifs at h <;> cases h <;> simp
  · cases h; simp

/-- Only a frame to this unit alone is rejected for its checksum with a reply (40_frame_reception.md R99, R100). -/
theorem classify_of_badChecksumUnicast {address : Byte} {f : List Byte}
    (h : decode address f = .error .badChecksumUnicast) : classify address (operandByte f 0) = .unicast := by
  cases hf : parseFrame f with
  | error r =>
    simp only [decode, hf] at h
    cases h
    simpa using parseFrame_error hf
  | ok fr =>
    rw [operandByte_dest hf]
    cases hc : classify address fr.dest with
    | unicast => rfl
    | broadcast => rw [decode_broadcast hf hc] at h; split at h <;> cases h
    | foreign => rw [decode_foreign hf hc] at h; cases h

/-- A frame that ends in an error raises it, with the flag as its destination sets it, and feeds the counter. -/
theorem handleFrame_of_frameError {f : List Byte} {s : State} {e : ErrorCause} {p : Byte}
    (h : s.frameError f = some (e, p)) :
    ∃ k, (k = s.drawIndex ∨ k = s.drawIndex + 1) ∧
      handleFrame f s =
        .next (raisedAt (s.setSuppression (classify s.address (operandByte f 0))) e p k).counterFeed := by
  unfold State.frameError at h
  split at h
  case h_1 i hdecode =>
    rw [← setSuppression_operationError s (classify s.address (operandByte f 0))] at h
    obtain ⟨k, hk, hexec⟩ := exec_of_operationError h
    exact ⟨k, hk, by rw [handleFrame_of_decode hdecode, hexec]; rfl⟩
  case h_2 hdecode =>
    cases h
    refine ⟨_, .inl rfl, ?_⟩
    rw [classify_of_badChecksumUnicast hdecode]
    simp only [handleFrame, hdecode]
    rfl
  case h_3 => cases h

/-- Raising with the flag set for a destination byte: the reply goes out unless that byte is the broadcast address. -/
theorem raisedAt_setSuppression (s : State) (a : Byte) (e : ErrorCause) (p : Byte) (k : Nat) :
    raisedAt (s.setSuppression (classify s.address a)) e p k =
      { s with
        respondSuppressed := decide (a = 0xFF)
        tx := if a = 0xFF then s.tx else s.tx ++ [errorFrame s.address e p]
        drawIndex := k } := by
  simp [raisedAt, State.raise_eq, State.setSuppression, classify_eq_broadcast]

/-- Settles O20: the frame raises its error, which is gated by the flag that its destination sets. -/
theorem erroredFrameChangesNoRegister : Obligations.ErroredFrameChangesNoRegister := by
  intro f s t e p herror h
  obtain ⟨k, hk, hframe⟩ := handleFrame_of_frameError herror
  refine ⟨k, hk, ?_⟩
  rw [← raisedAt_setSuppression]
  exact Host.Outcome.next.inj (h.symm.trans hframe)

end Sys2Proof.Proofs.StoreAndErrors
end

section
/-! PROOFS. Encoding and decoding (30_encoding.md): the encoder and the decoder are inverse to each other in every
direction words travel (R60, R63, R67, R70, R72), and the decoder takes the first matching row of the operation map
(R66, R72). -/

namespace Sys2Proof.Proofs.Encoding

open Sys2Proof Sys2Proof.Machine Sys2Proof.Proofs.StoreAndErrors

/-! ## The rows of a frame for this unit -/

/-- Rows 3 to 13 of 30_encoding.md R72: which command, parameter and payload of a frame to `d` stand for which
operation. (The side conditions write byte constants as `simp` normalises them.) -/
inductive LocalRow (d : LocalDest) : Byte → Byte → List Byte → Instr → Prop
  | rdAddr (payload) : LocalRow d Config.cmdRead Config.pAddress payload (.rdAddr d payload)
  | rdSearch (probed) : LocalRow d Config.cmdRead Config.pSearch [probed] (.rdSearch d probed)
  | illLenRdSearch {payload} (h : payload.length ≠ 1) :
    LocalRow d Config.cmdRead Config.pSearch payload (.illLenRdSearch d payload)
  | rdExt {p} (payload) (h : isExtParam p = true) : LocalRow d Config.cmdRead p payload (.rdExt d p payload)
  | wrAddr1 (new) : LocalRow d Config.cmdWrite Config.pAddress [new] (.wrAddr1 d new)
  | wrAddr2 (new slot) : LocalRow d Config.cmdWrite Config.pAddress [new, slot] (.wrAddr2 d new slot)
  | illLenWrAddr {payload} (h1 : payload.length ≠ 1) (h2 : payload.length ≠ 2) :
    LocalRow d Config.cmdWrite Config.pAddress payload (.illLenWrAddr d payload)
  | wrSearch (slots) : LocalRow d Config.cmdWrite Config.pSearch [slots] (.wrSearch d slots)
  | illLenWrSearch {payload} (h : payload.length ≠ 1) :
    LocalRow d Config.cmdWrite Config.pSearch payload (.illLenWrSearch d payload)
  | wrExt {p} (payload) (h : isExtParam p = true) : LocalRow d Config.cmdWrite p payload (.wrExt d p payload)
  | illCmd {c} (p payload) (hread : c ≠ 0x01#8) (hwrite : c ≠ 0x81#8) :
    LocalRow d c p payload (.illCmd d c p payload)

theorem isExtParam_iff {p : Byte} : isExtParam p = true ↔ p ≠ 0x01#8 ∧ p ≠ 0x08#8 := by
  simp [isExtParam]

/-- The decoder takes a row. -/
theorem localRow_decodeLocal (d : LocalDest) (c p : Byte) (payload : List Byte) :
    LocalRow d c p payload (decodeLocal d c p payload) := by
  unfold decodeLocal
  split_ifs with hread haddress hsearch hwrite haddress hsearch
  · subst hread haddress; exact .rdAddr payload
  · subst hread hsearch
    split
    · exact .rdSearch _
    · exact .illLenRdSearch (by simpa [List.length_eq_one_iff])
  · subst hread; exact .rdExt payload (isExtParam_iff.2 ⟨haddress, hsearch⟩)
  · subst hwrite haddress
    split
    · exact .wrAddr1 _
    · exact .wrAddr2 _ _
    · exact .illLenWrAddr (by simpa [List.length_eq_one_iff]) (by simpa [List.length_eq_two])
  · subst hwrite hsearch
    split
    · exact .wrSearch _
    · exact .illLenWrSearch (by simpa [List.length_eq_one_iff])
  · subst hwrite; exact .wrExt payload (isExtParam_iff.2 ⟨haddress, hsearch⟩)
  · exact .illCmd p payload hread hwrite

namespace LocalRow

variable {d : LocalDest} {c p : Byte} {payload : List Byte} {i : Instr}

theorem encode_eq (h : LocalRow d c p payload i) (address nextSlot : Byte) :
    encode address nextSlot i = .request (frameOf d.byte c p payload) := by
  cases h <;> rfl

theorem fits_eq (h : LocalRow d c p payload i) (address : Byte) : i.fits address = d.fits address := by
  cases h <;> rfl

theorem wellFormed_iff (h : LocalRow d c p payload i) :
    i.wellFormed = true ↔ d.wellFormed = true ∧ payload.length ≤ 255 := by
  cases h with
  | illLenRdSearch h | illLenWrSearch h => simp [Instr.wellFormed, payloadFits, h]
  | illLenWrAddr h1 h2 => simp [Instr.wellFormed, payloadFits, h1, h2]
  | rdExt _ h | wrExt _ h => simp [Instr.wellFormed, payloadFits, h]
  | illCmd _ _ hread hwrite => simp [Instr.wellFormed, payloadFits, hread, hwrite]
  | _ => simp [Instr.wellFormed, payloadFits]

/-- The rows exclude each other: one that matches is the one the decoder takes. -/
theorem decodeLocal_eq (h : LocalRow d c p payload i) : decodeLocal d c p payload = i := by
  cases h with
  | illLenRdSearch h | illLenWrSearch h =>
    match payload, h with
    | [], _ | _ :: _ :: _, _ => rfl
    | [_], h => exact absurd rfl h
  | illLenWrAddr h1 h2 =>
    match payload, h1, h2 with
    | [], _, _ | _ :: _ :: _ :: _, _, _ => rfl
    | [_], h1, _ => exact absurd rfl h1
    | [_, _], _, h2 => exact absurd rfl h2
  | rdExt _ h | wrExt _ h =>
    obtain ⟨haddress, hsearch⟩ := isExtParam_iff.1 h
    simp [decodeLocal, haddress, hsearch]
  | illCmd _ _ hread hwrite => simp [decodeLocal, hread, hwrite]
  | _ => rfl

end LocalRow

/-! ## Which frames are for this unit (40_frame_reception.md R95) -/

section Destination

variable {address : Byte}

/-- A destination byte that is not foreign is a well-formed destination of this unit. -/
theorem exists_dest {a : Byte} (h : classify address a ≠ .foreign) :
    ∃ d : LocalDest, d.byte = a ∧ d.wellFormed = true ∧ d.fits address = true := by
  cases hc : classify address a with
  | foreign => exact absurd hc h
  | broadcast => exact ⟨.broadcast, (classify_eq_broadcast.1 hc).symm, rfl, rfl⟩
  | unicast =>
    obtain ⟨hb, ha⟩ := classify_eq_unicast.1 hc
    exact ⟨.unicast a, rfl, decide_eq_true hb, decide_eq_true ha⟩

/-- A whole frame to this unit is the request of its command, parameter and payload. -/
theorem decode_request {d : LocalDest} {c p : Byte} {payload : List Byte} (hd : d.wellFormed = true)
    (hf : d.fits address = true) (hp : payload.length ≤ 255) :
    decode address (frameOf d.byte c p payload) = .ok (decodeLocal d c p payload) := by
  cases d with
  | broadcast => exact decode_frameOf_broadcast hp
  | unicast a =>
    obtain rfl : a = address := of_decide_eq_true hf
    exact decode_frameOf_unicast (of_decide_eq_true hd) hp

/-- Of the frames that are for this unit only those with a good checksum decode (40_frame_reception.md R99, R100). -/
theorem checksumOk_of_decode {bytes : List Byte} {f : Frame} {i : Instr} (hparse : parseFrame bytes = .ok f)
    (hc : classify address f.dest ≠ .foreign) (h : decode address bytes = .ok i) : checksumOk bytes = true := by
  by_contra hsum
  cases hclass : classify address f.dest with
  | foreign => exact hc hclass
  | broadcast => rw [decode_broadcast hparse hclass, if_neg hsum] at h; cases h
  | unicast => rw [decode_unicast hparse hclass, if_neg hsum] at h; cases h

end Destination

/-! ## Foreign frames (40_frame_reception.md R98) -/

section Foreign

variable {address a c p ck : Byte} {payload : List Byte}

theorem isSnoopShape_iff :
    isSnoopShape a c p payload ck = true ↔
      c = Config.cmdRead ∧ p = Config.pSearch ∧ (∃ v, payload = [v]) ∧ ck = checksum (frameBody a c p payload) := by
  simp [isSnoopShape, List.length_eq_one_iff, and_assoc]

variable (hb : a ≠ 0xFF) (ha : a ≠ address)
include hb ha

/-- A search reply of another unit with a good checksum is SNOOP_SEARCH. -/
theorem decode_snoop (v : Byte) :
    decode address (frameOf a Config.cmdRead Config.pSearch [v]) = .ok (.snoopSearch a v) := by
  rw [decode_foreign (parseFrame_frameOf (by simp)) (classify_eq_foreign.2 ⟨hb, ha⟩), checksumOk_frameOf]
  rfl

/-- Any other foreign frame is IGNORE_FOREIGN, whether or not its checksum is good. -/
theorem decode_ignored (hp : payload.length ≤ 255) (h : isSnoopShape a c p payload ck = false) :
    decode address (frameBody a c p payload ++ [ck]) = .ok (.ignoreForeign a c p payload ck) := by
  rw [decode_foreign (parseFrame_body ck hp) (classify_eq_foreign.2 ⟨hb, ha⟩), checksumOk_append, decodeForeign]
  split_ifs with hrow
  · obtain ⟨hsum, hread, hsearch⟩ := hrow
    dsimp only at hread hsearch ⊢
    split
    · exact absurd (isSnoopShape_iff.2 ⟨hread, hsearch, ⟨_, rfl⟩, of_decide_eq_true hsum⟩) (Bool.eq_false_iff.1 h)
    · rfl
  · rfl

end Foreign

/-! ## Emitted frames (30_encoding.md R67, R68) -/

theorem errorText_inj {e e' : ErrorCause} : errorText e = errorText e' ↔ e = e' := by
  cases e <;> cases e' <;> decide

/-- A whole frame from this unit is the reply of its command, parameter and payload. -/
theorem decodeReply_frameOf {address nextSlot c p : Byte} {payload : List Byte} (hp : payload.length ≤ 255) :
    decodeReply address nextSlot (frameOf address c p payload) = decodeReplyBody address nextSlot c p payload := by
  simp [decodeReply, parseFrame_frameOf hp, checksumOk_frameOf]

theorem decodeReplyBody_ext {address nextSlot p : Byte} (cmd : ExtCmd) (payload : List Byte)
    (h : isExtParam p = true) : decodeReplyBody address nextSlot cmd.byte p payload = .ok (.rplExt cmd p payload) := by
  obtain ⟨haddress, hsearch⟩ := isExtParam_iff.1 h
  cases cmd with
  | read | write => simp [decodeReplyBody, ExtCmd.byte, haddress, hsearch]

theorem decodeReply_error {address nextSlot p : Byte} (e : ErrorCause) :
    decodeReply address nextSlot (errorFrame address e p) =
      decodeReplyBody address nextSlot Config.cmdError p (errorText e) :=
  decodeReply_frameOf (by cases e <;> decide)

/-! ## Decoding undoes encoding -/

/-- The words of a request to this unit are a frame, which decodes by its row. -/
theorem LocalRow.decode_encode {d : LocalDest} {c p : Byte} {payload : List Byte} {i : Instr}
    (h : LocalRow d c p payload i) {address nextSlot : Byte} (hw : i.wellFormed = true)
    (hf : i.fits address = true) : decodeEncoded address nextSlot (encode address nextSlot i) = .ok i := by
  obtain ⟨hd, hp⟩ := h.wellFormed_iff.1 hw
  rw [h.encode_eq, decodeEncoded, decode_request hd (h.fits_eq address ▸ hf) hp, h.decodeLocal_eq]

/-- Settles O1, operation by operation: the eleven rows of requests to this unit, the two foreign rows, the nine replies and
the three pool requests. -/
theorem encodeThenDecodeGivesTheOperation : Obligations.EncodeThenDecodeGivesTheOperation := by
  intro address nextSlot i hw hf
  have wf := hw
  cases i with
  | snoopSearch a v => exact decode_snoop (of_decide_eq_true hw) (of_decide_eq_true hf) v
  | ignoreForeign a c p payload ck =>
    simp only [Instr.wellFormed, payloadFits, Bool.and_eq_true, decide_eq_true_eq, Bool.not_eq_true'] at wf
    obtain ⟨⟨hb, hp⟩, hshape⟩ := wf
    exact decode_ignored hb (of_decide_eq_true hf) hp hshape
  | rdAddr d payload => exact (LocalRow.rdAddr payload).decode_encode hw hf
  | rdSearch d probed => exact (LocalRow.rdSearch probed).decode_encode hw hf
  | illLenRdSearch d payload =>
    simp only [Instr.wellFormed, Bool.and_eq_true, decide_eq_true_eq] at wf
    exact (LocalRow.illLenRdSearch wf.2).decode_encode hw hf
  | rdExt d p payload =>
    simp only [Instr.wellFormed, Bool.and_eq_true] at wf
    exact (LocalRow.rdExt payload wf.2).decode_encode hw hf
  | wrAddr1 d new => exact (LocalRow.wrAddr1 new).decode_encode hw hf
  | wrAddr2 d new slot => exact (LocalRow.wrAddr2 new slot).decode_encode hw hf
  | illLenWrAddr d payload =>
    simp only [Instr.wellFormed, Bool.and_eq_true, decide_eq_true_eq] at wf
    obtain ⟨⟨-, h1⟩, h2⟩ := wf
    exact (LocalRow.illLenWrAddr h1 h2).decode_encode hw hf
  | wrSearch d slots => exact (LocalRow.wrSearch slots).decode_encode hw hf
  | illLenWrSearch d payload =>
    simp only [Instr.wellFormed, Bool.and_eq_true, decide_eq_true_eq] at wf
    exact (LocalRow.illLenWrSearch wf.2).decode_encode hw hf
  | wrExt d p payload =>
    simp only [Instr.wellFormed, Bool.and_eq_true] at wf
    exact (LocalRow.wrExt payload wf.2).decode_encode hw hf
  | illCmd d c p payload =>
    simp only [Instr.wellFormed, Bool.and_eq_true, decide_eq_true_eq] at wf
    obtain ⟨⟨-, hread⟩, hwrite⟩ := wf
    exact (LocalRow.illCmd p payload hread hwrite).decode_encode hw hf
  | rplRdAddr | rplRdSearch | rplWrAddr | rplWrSearch =>
    rw [encode, decodeEncoded, decodeReply_frameOf]
    · simp [decodeReplyBody]
    · simp
  | rplExt cmd p data =>
    simp only [Instr.wellFormed, payloadFits, Bool.and_eq_true, decide_eq_true_eq] at wf
    exact (decodeReply_frameOf wf.1).trans (decodeReplyBody_ext cmd data wf.2)
  | errBadChecksum | errUnhandledCommand | errInvalidLength p | errInvalidParameter p =>
    rw [encode, decodeEncoded, decodeReply_error]
    simp [decodeReplyBody, errorText_inj]
  | feed bytes | readDigest | boundedInteger max => rfl

/-! ## Encoding undoes decoding -/

/-- Settles O2: the bytes are a frame; a foreign one is a search reply or ignored, and any other has a good checksum and
a row. -/
theorem decodedFrameEncodesBack : Obligations.DecodedFrameEncodesBack := by
  intro address nextSlot bytes i h
  cases hparse : parseFrame bytes with
  | error r => simp only [decode, hparse] at h; cases h
  | ok f =>
    obtain ⟨rfl, hp⟩ := parseFrame_ok hparse
    by_cases hc : classify address f.dest = .foreign
    · obtain ⟨hb, ha⟩ := classify_eq_foreign.1 hc
      cases hshape : isSnoopShape f.dest f.cmd f.param f.payload f.ck with
      | true =>
        obtain ⟨hread, hsearch, ⟨v, hv⟩, hck⟩ := isSnoopShape_iff.1 hshape
        rw [hck, hread, hsearch, hv] at h ⊢
        cases (decode_snoop hb ha v).symm.trans h
        exact ⟨rfl, decide_eq_true hb, decide_eq_true ha⟩
      | false =>
        cases (decode_ignored hb ha hp hshape).symm.trans h
        refine ⟨rfl, ?_, decide_eq_true ha⟩
        simpa [Instr.wellFormed, payloadFits, hp, hshape] using hb
    · obtain ⟨d, hd, hwell, hfits⟩ := exists_dest hc
      have hck := checksumOk_of_decode hparse hc h
      rw [checksumOk_append, decide_eq_true_eq] at hck
      rw [← hd] at hck h ⊢
      rw [hck] at h ⊢
      cases (decode_request hwell hfits hp).symm.trans h
      have row := localRow_decodeLocal d f.cmd f.param f.payload
      exact ⟨row.encode_eq address nextSlot, row.wellFormed_iff.2 ⟨hwell, hp⟩, (row.fits_eq address).trans hfits⟩

/-! ## The table of the operation map (30_encoding.md R66, R72) -/

/-- The operation map with masks and values cut into the four header bytes. -/
theorem operationMap_bytes :
    operationMap =
      [⟨.snoopSearch, true, headerWord 0 0xFF 0xFF 0xFF, headerWord 0 0x01 0x08 0x01⟩,
       ⟨.ignoreForeign, true, headerWord 0 0 0 0, headerWord 0 0 0 0⟩,
       ⟨.rdAddr, false, headerWord 0 0xFF 0xFF 0, headerWord 0 0x01 0x01 0⟩,
       ⟨.rdSearch, false, headerWord 0 0xFF 0xFF 0xFF, headerWord 0 0x01 0x08 0x01⟩,
       ⟨.illLenRdSearch, false, headerWord 0 0xFF 0xFF 0, headerWord 0 0x01 0x08 0⟩,
       ⟨.rdExt, false, headerWord 0 0xFF 0 0, headerWord 0 0x01 0 0⟩,
       ⟨.wrAddr1, false, headerWord 0 0xFF 0xFF 0xFF, headerWord 0 0x81 0x01 0x01⟩,
       ⟨.wrAddr2, false, headerWord 0 0xFF 0xFF 0xFF, headerWord 0 0x81 0x01 0x02⟩,
       ⟨.illLenWrAddr, false, headerWord 0 0xFF 0xFF 0, headerWord 0 0x81 0x01 0⟩,
       ⟨.wrSearch, false, headerWord 0 0xFF 0xFF 0xFF, headerWord 0 0x81 0x08 0x01⟩,
       ⟨.illLenWrSearch, false, headerWord 0 0xFF 0xFF 0, headerWord 0 0x81 0x08 0⟩,
       ⟨.wrExt, false, headerWord 0 0xFF 0 0, headerWord 0 0x81 0 0⟩,
       ⟨.illCmd, false, headerWord 0 0 0 0, headerWord 0 0 0 0⟩] := by decide

theorem byte_and_ff (b : Byte) : b &&& 0xFF = b := BitVec.and_allOnes

theorem byte_and_zero (b : Byte) : b &&& 0 = 0 := BitVec.and_zero

/-- Searching the table: the row is taken if its class and its masked word match, else the rest is searched. -/
theorem find_row_cons (foreign : Bool) (hw : BitVec 32) (r : MapRow) (rows : List MapRow) :
    ((r :: rows).find? fun r => r.foreign == foreign && (hw &&& r.mask) == r.value).map MapRow.row =
      if r.foreign = foreign ∧ hw &&& r.mask = r.value then some r.row
      else (rows.find? fun r => r.foreign == foreign && (hw &&& r.mask) == r.value).map MapRow.row := by
  by_cases h : r.foreign = foreign ∧ hw &&& r.mask = r.value
  · rw [if_pos h, List.find?_cons_of_pos (by simpa using h)]
    rfl
  · rw [if_neg h, List.find?_cons_of_neg (by simpa using h)]

/-- Rows 1 and 2 of R72 on the header bytes. -/
theorem firstRow_foreign (a c p l : Byte) :
    firstRow true (headerWord a c p l) =
      if c = 0x01 ∧ p = 0x08 ∧ l = 0x01 then some .snoopSearch else some .ignoreForeign := by
  simp only [firstRow, operationMap_bytes, find_row_cons, headerWord_and_eq, byte_and_ff, byte_and_zero, true_and,
    and_true, if_true]

/-- Rows 3 to 13 of R72 on the header bytes. -/
theorem firstRow_local (a c p l : Byte) :
    firstRow false (headerWord a c p l) =
      if c = 0x01 ∧ p = 0x01 then some .rdAddr
      else if c = 0x01 ∧ p = 0x08 ∧ l = 0x01 then some .rdSearch
      else if c = 0x01 ∧ p = 0x08 then some .illLenRdSearch
      else if c = 0x01 then some .rdExt
      else if c = 0x81 ∧ p = 0x01 ∧ l = 0x01 then some .wrAddr1
      else if c = 0x81 ∧ p = 0x01 ∧ l = 0x02 then some .wrAddr2
      else if c = 0x81 ∧ p = 0x01 then some .illLenWrAddr
      else if c = 0x81 ∧ p = 0x08 ∧ l = 0x01 then some .wrSearch
      else if c = 0x81 ∧ p = 0x08 then some .illLenWrSearch
      else if c = 0x81 then some .wrExt
      else some .illCmd := by
  simp only [firstRow, operationMap_bytes, find_row_cons, headerWord_and_eq, byte_and_ff, byte_and_zero, and_true,
    if_true, Bool.true_eq_false, false_and, if_false, true_and]

theorem lengthByte_eq {n k : Nat} (hn : n ≤ 255) (hk : k ≤ 255) : BitVec.ofNat 8 n = BitVec.ofNat 8 k ↔ n = k := by
  rw [← BitVec.toNat_inj, BitVec.toNat_ofNat, BitVec.toNat_ofNat]
  omega

/-- A row of this unit's is the table's first match for its header word. -/
theorem LocalRow.requestRow_eq {d : LocalDest} {c p : Byte} {payload : List Byte} {i : Instr}
    (h : LocalRow d c p payload i) (hp : payload.length ≤ 255) (a : Byte) :
    i.requestRow = firstRow false (headerWord a c p (BitVec.ofNat 8 payload.length)) := by
  have hone : BitVec.ofNat 8 payload.length = 1 ↔ payload.length = 1 := lengthByte_eq hp (by decide)
  have htwo : BitVec.ofNat 8 payload.length = 2 ↔ payload.length = 2 := lengthByte_eq hp (by decide)
  simp only [firstRow_local, hone, htwo]
  cases h with
  | illLenRdSearch h | illLenWrSearch h => simp [Instr.requestRow, h]
  | illLenWrAddr h1 h2 => simp [Instr.requestRow, h1, h2]
  | rdExt _ h | wrExt _ h =>
    obtain ⟨haddress, hsearch⟩ := isExtParam_iff.1 h
    simp [Instr.requestRow, haddress, hsearch]
  | illCmd _ _ hread hwrite => simp [Instr.requestRow, hread, hwrite]
  | _ => rfl

/-- Settles O4: the operation of a foreign frame, or of a row of this unit's, stands at the table's first match. -/
theorem decodeTakesTheFirstMatchingRow : Obligations.DecodeTakesTheFirstMatchingRow := by
  intro address a c p data hdata
  by_cases hc : classify address a = .foreign
  · obtain ⟨hb, ha⟩ := classify_eq_foreign.1 hc
    rw [decide_eq_true hc, firstRow_foreign]
    cases hshape : isSnoopShape a c p data (checksum (frameBody a c p data)) with
    | true =>
      obtain ⟨rfl, rfl, ⟨v, rfl⟩, -⟩ := isSnoopShape_iff.1 hshape
      exact ⟨_, decode_snoop hb ha v, rfl⟩
    | false =>
      refine ⟨_, decode_ignored hb ha hdata hshape, (if_neg ?_).symm⟩
      rintro ⟨rfl, rfl, hl⟩
      have hsingle : ∃ v, data = [v] := List.length_eq_one_iff.1 ((lengthByte_eq hdata (by decide)).1 hl)
      exact Bool.eq_false_iff.1 hshape (isSnoopShape_iff.2 ⟨rfl, rfl, hsingle, rfl⟩)
  · obtain ⟨d, rfl, hwell, hfits⟩ := exists_dest hc
    rw [decide_eq_false hc]
    exact ⟨_, decode_request hwell hfits hdata, (localRow_decodeLocal ..).requestRow_eq hdata _⟩

/-! ## Concrete frames, and the unused pool select -/

/-- Settles O3: the frames are evaluated. -/
theorem specFramesDecodeAsListed : Obligations.SpecFramesDecodeAsListed := by
  unfold Obligations.SpecFramesDecodeAsListed
  decide

/-- A live unit serves a request on the pool port first (log 9). -/
theorem step_of_port {s : State} {r : PoolRequest} (hh : s.hung = false) (hr : s.port = some r) :
    step s = servePool r { s with port := none } := by
  simp [step, nextAction, hr, hh]

/-- Settles O5: the request is served at once, and the decoder of pool requests rejects select `11`. -/
theorem unusedPoolSelectIsRefused : Obligations.UnusedPoolSelectIsRefused := by
  intro s operand hh hport
  rw [step_of_port hh hport]
  rfl

end Sys2Proof.Proofs.Encoding
end

section
/-! PROOFS. Frame reception (40_frame_reception.md): the checksum notices one changed byte (R94), a byte completes at
most the one frame the buffer holds (R90, R96, R102), a chunk does what its bytes do (R103), and handling a frame
follows the routing pseudocode (R97, R98). -/

namespace Sys2Proof.Proofs.Reception

open Sys2Proof Sys2Proof.Machine Sys2Proof.Proofs.Registers Sys2Proof.Proofs.StoreAndErrors
open Sys2Proof.Proofs.Encoding

/-! ## The checksum (40_frame_reception.md R94) -/

/-- A byte string that passes fails with one of its bytes exchanged for another, the checksum byte included. -/
theorem checksumOk_of_otherByte {pre post : List Byte} {b b' : Byte} (hne : b' ≠ b)
    (h : checksumOk (pre ++ b :: post) = true) : checksumOk (pre ++ b' :: post) = false := by
  rcases List.eq_nil_or_concat' post with rfl | ⟨mid, ck, rfl⟩
  · rw [checksumOk_append, decide_eq_true_eq] at h
    rw [checksumOk_append, decide_eq_false_iff_not, ← h]
    exact hne
  · have snoc (x : Byte) : pre ++ x :: (mid ++ [ck]) = (pre ++ x :: mid) ++ [ck] := by simp
    rw [snoc, checksumOk_append, decide_eq_true_eq] at h
    rw [snoc, checksumOk_append, decide_eq_false_iff_not, h]
    simpa [checksum_append, checksum_cons] using hne.symm

/-- Changing one bit of a byte gives another byte. -/
theorem xor_bit_ne (b : Byte) {k : Nat} (hk : k < 8) : b ^^^ ((1 : Byte) <<< k) ≠ b := by
  intro h
  have hbit := congrArg (fun x : Byte => x.getLsbD k) h
  simp [hk] at hbit

/-- Settles O6: one changed bit is another byte, and a sum with one other term is another sum. -/
theorem oneChangedBitFailsTheChecksum : Obligations.OneChangedBitFailsTheChecksum := by
  refine ⟨fun body ck => ?_, fun body => ?_, fun f idx k hok hidx hk => ?_, by decide, by decide, by decide⟩
  · rw [checksumOk_append, decide_eq_true_eq]
  · rw [checksumOk_append, decide_eq_true rfl]
  · rw [List.modify_eq_take_cons_drop hidx]
    refine checksumOk_of_otherByte (xor_bit_ne f[idx] hk) ?_
    rwa [List.getElem_cons_drop, List.take_append_drop]

/-! ## The length a buffer declares (40_frame_reception.md R92, R102) -/

section DeclaredLength

variable {buf : List Byte} {n : Nat}

theorem declaredLength_bounds (h : declaredLength buf = some n) : 5 ≤ n ∧ n ≤ 260 := by
  match buf, h with
  | _ :: _ :: _ :: l :: _, h =>
    have := l.isLt
    simp only [declaredLength, Option.some.injEq] at h
    omega

theorem declaredLength_eq_none_iff : declaredLength buf = none ↔ buf.length ≤ 3 := by
  match buf with
  | [] | [_] | [_, _] | [_, _, _] => simp [declaredLength]
  | _ :: _ :: _ :: _ :: _ => simp [declaredLength]

/-- Bytes that follow do not change the length declared. -/
theorem declaredLength_append (h : declaredLength buf = some n) (rest : List Byte) :
    declaredLength (buf ++ rest) = some n := by
  match buf, h with
  | _ :: _ :: _ :: _ :: _, h => exact h

/-- A whole frame is complete. -/
theorem isFrameComplete_of_exact (h : declaredLength buf = some buf.length) : isFrameComplete buf = true :=
  (isFrameComplete_iff buf).2 ⟨_, h, le_rfl⟩

theorem length_lt_of_incomplete (hopen : isFrameComplete buf = false) (h : declaredLength buf = some n) :
    buf.length < n := by
  by_contra hle
  exact Bool.eq_false_iff.1 hopen ((isFrameComplete_iff buf).2 ⟨n, h, by omega⟩)

/-- An incomplete frame is at most 259 bytes long (R102). -/
theorem length_le_of_incomplete (hopen : isFrameComplete buf = false) : buf.length ≤ 259 := by
  cases h : declaredLength buf with
  | none => have := declaredLength_eq_none_iff.1 h; omega
  | some n =>
    have := length_lt_of_incomplete hopen h
    have := declaredLength_bounds h
    omega

/-- One byte more than an incomplete frame is no more than the length then declared (R102). -/
theorem length_succ_le_of_incomplete {b : Byte} (hopen : isFrameComplete buf = false)
    (h : declaredLength (buf ++ [b]) = some n) : buf.length + 1 ≤ n := by
  cases hbuf : declaredLength buf with
  | none =>
    have := declaredLength_eq_none_iff.1 hbuf
    have := declaredLength_bounds h
    omega
  | some m =>
    have hm : m = n := Option.some.inj ((declaredLength_append hbuf [b]).symm.trans h)
    exact hm ▸ length_lt_of_incomplete hopen hbuf

/-- The byte that follows an incomplete frame completes it exactly at the length declared (R102). -/
theorem isFrameComplete_snoc_iff {b : Byte} (hopen : isFrameComplete buf = false) :
    isFrameComplete (buf ++ [b]) = true ↔ declaredLength (buf ++ [b]) = some (buf.length + 1) := by
  have hlen : (buf ++ [b]).length = buf.length + 1 := by simp
  constructor
  · intro hcomplete
    obtain ⟨n, hn, hle⟩ := (isFrameComplete_iff _).1 hcomplete
    have hge := length_succ_le_of_incomplete hopen hn
    rw [hn, show n = buf.length + 1 by omega]
  · intro hexact
    exact isFrameComplete_of_exact (hlen ▸ hexact)

/-- Bytes that parse as a frame have the length they declare. -/
theorem declaredLength_of_parse {f : Frame} (h : parseFrame buf = .ok f) : declaredLength buf = some buf.length := by
  obtain ⟨rfl, hpayload⟩ := parseFrame_ok h
  rw [declaredLength_body hpayload]
  simp [frameBody]

/-- Bytes that decode have the length they declare. -/
theorem declaredLength_of_decode {address : Byte} {i : Instr} (h : decode address buf = .ok i) :
    declaredLength buf = some buf.length := by
  cases hparse : parseFrame buf with
  | error r => simp only [decode, hparse] at h; cases h
  | ok f => exact declaredLength_of_parse hparse

end DeclaredLength

/-! ## Receiving bytes (40_frame_reception.md R90, R96, R103) -/

/-- Draining has nothing to do: the unit hangs, or the buffer holds an incomplete frame. This is what `drain_incomplete`
says of the state that draining leaves. -/
def Drained (s : State) : Prop := s.hung = true ∨ isFrameComplete s.rxbuf = false

theorem drained_iff {s : State} : Drained s ↔ (isFrameComplete s.rxbuf && !s.hung) = false := by
  cases hh : s.hung <;> simp [Drained, hh]

theorem drain_of_drained {s : State} (h : Drained s) (fuel : Nat) : drain fuel s = .next s := by
  cases fuel with
  | zero => rfl
  | succ n => rw [drain_succ, drained_iff.1 h]; rfl

theorem receive_nil {s : State} (h : Drained s) : receive [] s = .next s := by
  rw [receive, List.append_nil]
  exact drain_of_drained h _

theorem receive_drained {bs : List Byte} {s t : State} (h : receive bs s = .next t) : Drained t :=
  drain_incomplete (by simp) h

/-- The first byte of a chunk may as well stand in the buffer. -/
theorem receive_cons (b : Byte) (bs : List Byte) (s : State) :
    receive (b :: bs) s = receive bs { s with rxbuf := s.rxbuf ++ [b] } := by
  simp only [receive, List.append_assoc, List.singleton_append, List.length_append, List.length_cons, List.length_nil]
  congr 1
  omega

/-- A whole frame in the buffer is taken off before the bytes that follow it, and they are received by the state its
handling leaves (40_frame_reception.md R96). -/
theorem receive_of_frame {s t : State} (hlive : s.hung = false) (hexact : declaredLength s.rxbuf = some s.rxbuf.length)
    (h : handleFrame s.rxbuf { s with rxbuf := [] } = .next t) (bs : List Byte) : receive bs s = receive bs t := by
  have hcomplete : isFrameComplete (s.rxbuf ++ bs) = true :=
    (isFrameComplete_iff _).2 ⟨_, declaredLength_append hexact bs, by simp⟩
  have hfront : ({ s with rxbuf := s.rxbuf ++ bs } : State).frontLength = s.rxbuf.length := by
    rw [State.frontLength, declaredLength_append hexact]
    rfl
  have hempty : t.rxbuf = [] := (handleFrame_keeps_input h).1
  obtain ⟨k, hk⟩ : ∃ k, s.rxbuf.length = k + 1 := by
    have := declaredLength_bounds hexact
    exact ⟨s.rxbuf.length - 1, by omega⟩
  have hfuel : s.rxbuf.length + bs.length = (k + bs.length) + 1 := by omega
  have hturn : (isFrameComplete (s.rxbuf ++ bs) && !s.hung) = true := by simp [hcomplete, hlive]
  have hframe : handleFrame s.rxbuf { s with rxbuf := bs } = .next { t with rxbuf := bs } :=
    handleFrame_withRxbuf (s := { s with rxbuf := [] }) bs h
  rw [receive, hfuel, drain_succ, if_pos hturn, hfront, List.take_left, List.drop_left, hframe, receive, hempty]
  exact drain_fuel (by simp) (by simp)

/-- A frame taken off an otherwise empty buffer leaves nothing to drain. -/
theorem drained_of_handleFrame {f : List Byte} {s t : State} (h : handleFrame f { s with rxbuf := [] } = .next t) :
    Drained t := by
  have hempty : t.rxbuf = [] := (handleFrame_keeps_input h).1
  exact .inr (by rw [hempty]; rfl)

section Byte

variable {s t : State} {b : Byte}

/-- The byte that completes a frame has the whole buffer handled, and the bytes that follow are received by the state
this leaves. -/
theorem receive_completing (hlive : s.hung = false) (hopen : isFrameComplete s.rxbuf = false)
    (hcomplete : isFrameComplete (s.rxbuf ++ [b]) = true)
    (h : handleFrame (s.rxbuf ++ [b]) { s with rxbuf := [] } = .next t) (bs : List Byte) :
    receive (b :: bs) s = receive bs t := by
  have hexact := (isFrameComplete_snoc_iff hopen).1 hcomplete
  rw [receive_cons]
  exact receive_of_frame (s := { s with rxbuf := s.rxbuf ++ [b] }) hlive (by simpa using hexact) h bs

/-- A byte only gets stored, or completes the frame, and then the whole buffer is handled. -/
theorem receive_byte (hlive : s.hung = false) (hopen : isFrameComplete s.rxbuf = false) :
    receive [b] s =
      if isFrameComplete (s.rxbuf ++ [b]) then handleFrame (s.rxbuf ++ [b]) { s with rxbuf := [] }
      else .next { s with rxbuf := s.rxbuf ++ [b] } := by
  split
  case isTrue hcomplete =>
    obtain ⟨t, ht⟩ := handleFrame_answers_next (s.rxbuf ++ [b]) { s with rxbuf := [] }
    rw [receive_completing hlive hopen hcomplete ht, ht]
    exact receive_nil (drained_of_handleFrame ht)
  case isFalse hstored =>
    rw [receive_cons]
    exact receive_nil (.inr (by simpa using hstored))

/-- The bytes that follow a byte are received by the state that byte leaves, even if the unit hangs. -/
theorem receive_cons_of_byte (hs : Drained s) (h : receive [b] s = .next t) (bs : List Byte) :
    receive (b :: bs) s = receive bs t := by
  by_cases hstored : Drained { s with rxbuf := s.rxbuf ++ [b] }
  · rw [receive_cons, receive_nil hstored] at h
    cases h
    exact receive_cons b bs s
  · obtain ⟨hlive, hcomplete⟩ : s.hung = false ∧ isFrameComplete (s.rxbuf ++ [b]) = true := by
      simpa [Drained] using hstored
    have hopen : isFrameComplete s.rxbuf = false := hs.resolve_left (by simp [hlive])
    rw [receive_byte hlive hopen, if_pos hcomplete] at h
    exact receive_completing hlive hopen hcomplete h bs

end Byte

/-- Byte by byte or as one chunk, from a drained state (R103). -/
theorem receiveEach_eq_receive (bs : List Byte) {s : State} (hs : Drained s) : receiveEach bs s = receive bs s := by
  induction bs generalizing s with
  | nil => exact (receive_nil hs).symm
  | cons b bs ih =>
    obtain ⟨t, ht⟩ : ∃ t, receive [b] s = .next t := drain_answers_next _ _
    rw [receiveEach, ht, receive_cons_of_byte hs ht]
    exact ih (receive_drained ht)

/-- Settles O8: an incomplete frame leaves nothing to drain, so the two deliveries are equal. -/
theorem chunkedDeliveryEqualsByteDelivery : Obligations.ChunkedDeliveryEqualsByteDelivery := by
  intro bs s t _ hopen h _
  rwa [receiveEach_eq_receive bs (.inr hopen)] at h

/-! ## One step on an event (40_frame_reception.md R90, R101) -/

section LiveStep

variable {s : State} {rest : List Event} (hlive : s.hung = false) (hport : s.port = none)
include hlive hport

theorem step_of_event {e : Event} (hevents : s.events = e :: rest) :
    step s = handleLive e { s with events := rest } := by
  simp [step, nextAction, takeEvent, hport, hevents, hlive]

/-- A received byte is in range, and is stored or completes the frame. -/
theorem step_of_rxByte {b : Byte} (hopen : isFrameComplete s.rxbuf = false) (hevents : s.events = .rxByte b :: rest) :
    step s =
      if isFrameComplete (s.rxbuf ++ [b]) then handleFrame (s.rxbuf ++ [b]) { s with events := rest, rxbuf := [] }
      else .next { s with events := rest, rxbuf := s.rxbuf ++ [b] } := by
  have hrange : s.rxbuf.length < Config.rxbufCap := Nat.lt_succ_of_le (length_le_of_incomplete hopen)
  rw [step_of_event hlive hport hevents, handleLive, if_pos hrange]
  exact receive_byte (s := { s with events := rest }) hlive hopen

end LiveStep

/-- Settles O7, from the bounds on the length of an incomplete frame. -/
theorem rxByteStoresOrHandlesTheWholeBuffer : Obligations.RxByteStoresOrHandlesTheWholeBuffer :=
  fun _ _ _ hlive hport hopen hevents =>
    ⟨length_le_of_incomplete hopen, isFrameComplete_snoc_iff hopen, step_of_rxByte hlive hport hopen hevents⟩

/-- Settles O9: `RxFlush` is taken as the next event. -/
theorem flushOnlyEmptiesTheBuffer : Obligations.FlushOnlyEmptiesTheBuffer :=
  fun _ _ hlive hport hevents => step_of_event hlive hport hevents

/-- The flag a frame sets says whether its destination byte is the broadcast address (R97). -/
theorem setSuppression_classify (s : State) (address a : Byte) :
    s.setSuppression (classify address a) = { s with respondSuppressed := decide (a = 0xFF) } := by
  simp [State.setSuppression, classify_eq_broadcast]

/-- Settles O10: bytes that decode are a whole frame, so the byte completes it; a request is served at once. -/
theorem stepRunsTheDecodedOperation : Obligations.StepRunsTheDecodedOperation := by
  constructor
  · intro s b rest i hlive hport hopen hevents hdecode
    have hcomplete := isFrameComplete_of_exact (declaredLength_of_decode hdecode)
    rw [step_of_rxByte hlive hport hopen hevents, if_pos hcomplete,
      handleFrame_of_decode (s := { s with events := rest, rxbuf := [] }) hdecode, setSuppression_classify]
    obtain ⟨t, ht⟩ := exec_answers_next i
      { s with events := rest, rxbuf := [], respondSuppressed := decide (operandByte (s.rxbuf ++ [b]) 0 = 0xFF) }
    exact ⟨t, ht, by rw [ht]; rfl⟩
  · intro s r i hlive hport hdecode
    simp only [step_of_port hlive hport, servePool, hdecode]

/-! ## Foreign frames (40_frame_reception.md R98) -/

section Foreign

variable {f : List Byte} {fr : Frame} {address : Byte}

/-- A foreign frame is a search reply, of exactly that shape and with a good checksum, or it is ignored. -/
theorem decode_foreign_cases (hparse : parseFrame f = .ok fr) (hc : classify address fr.dest = .foreign) :
    (∃ v, f = frameOf fr.dest Config.cmdRead Config.pSearch [v] ∧ decode address f = .ok (.snoopSearch fr.dest v)) ∨
      (isSnoopShape fr.dest fr.cmd fr.param fr.payload fr.ck = false ∧
        decode address f = .ok (.ignoreForeign fr.dest fr.cmd fr.param fr.payload fr.ck)) := by
  obtain ⟨rfl, hpayload⟩ := parseFrame_ok hparse
  obtain ⟨hb, ha⟩ := classify_eq_foreign.1 hc
  cases hshape : isSnoopShape fr.dest fr.cmd fr.param fr.payload fr.ck with
  | true =>
    obtain ⟨hread, hsearch, ⟨v, hv⟩, hck⟩ := isSnoopShape_iff.1 hshape
    rw [hck, hread, hsearch, hv]
    exact .inl ⟨v, rfl, decode_snoop hb ha v⟩
  | false => exact .inr ⟨rfl, decode_ignored hb ha hpayload hshape⟩

/-- Handling a foreign frame that decodes clears the flag, runs its operation and feeds the counter. -/
theorem handleFrame_foreign {s : State} {i : Instr} (hc : classify s.address (operandByte f 0) = .foreign)
    (hdecode : decode s.address f = .ok i) :
    handleFrame f s = closeFrame (exec i { s with respondSuppressed := false }) := by
  rw [handleFrame_of_decode hdecode, hc]
  rfl

end Foreign

/-- Settles O28: the operation is the identity, and the frame decodes to it. -/
theorem ignoredForeignFrameHasNoEffect : Obligations.IgnoredForeignFrameHasNoEffect := by
  intro a c p payload ck s
  refine ⟨rfl, fun hw ha => ?_⟩
  simp only [Instr.wellFormed, payloadFits, Bool.and_eq_true, decide_eq_true_eq, Bool.not_eq_true'] at hw
  obtain ⟨⟨hb, hpayload⟩, hshape⟩ := hw
  exact handleFrame_foreign (f := frameBody a c p payload ++ [ck]) (classify_eq_foreign.2 ⟨hb, ha⟩)
    (decode_ignored hb ha hpayload hshape)

/-- Settles O14: a search reply inserts its slot into `usedSlots`, any other foreign frame is ignored. -/
theorem foreignFrameOnlyEverSnoops : Obligations.ForeignFrameOnlyEverSnoops := by
  intro f s t hc hexact h
  obtain ⟨fr, hparse⟩ := parseFrame_isOk hexact
  have hdest : classify s.address fr.dest = .foreign := operandByte_dest hparse ▸ hc
  rcases decode_foreign_cases hparse hdest with ⟨v, hf, hdecode⟩ | ⟨-, hdecode⟩
  · rw [handleFrame_foreign hc hdecode] at h
    cases h
    refine ⟨rfl, fun hchanged => ⟨fr.dest, v, hf, ?_⟩⟩
    rcases ({ s with respondSuppressed := false } : State).usedInsert_cases v with hsame | ⟨hgrown, -⟩
    · exact absurd hsame hchanged
    · exact hgrown
  · rw [handleFrame_foreign hc hdecode] at h
    cases h
    exact ⟨rfl, fun hchanged => absurd rfl hchanged⟩

/-! ## The routing pseudocode (40_frame_reception.md R97, 41_dispatch_and_reply.md R120 to R122) -/

/-- Observing a poll leaves the slot it is compared with. -/
theorem observePoll_selectedSlot (s : State) (d : LocalDest) (probed : Byte) :
    (s.observePoll d probed).selectedSlot = s.selectedSlot := by
  rw [observePoll_eq]

section Dispatch

variable (s : State) (dest : DestClass) (payload : List Byte)

theorem pseudoDispatch_rdSearch :
    s.pseudoDispatch dest Config.cmdRead Config.pSearch payload = s.pseudoRdSearch dest payload :=
  (if_pos rfl).trans ((if_neg (by decide)).trans (if_pos rfl))

theorem pseudoDispatch_wrSearch :
    s.pseudoDispatch dest Config.cmdWrite Config.pSearch payload = s.pseudoWrSearch payload := rfl

theorem pseudoDispatch_wrAddr :
    s.pseudoDispatch dest Config.cmdWrite Config.pAddress payload = s.pseudoWrAddr payload := rfl

/-- Dispatch of a parameter outside the core is the extension port. -/
theorem pseudoDispatch_ext (cmd : ExtCmd) {p : Byte} (h : isExtParam p = true) :
    s.pseudoDispatch dest cmd.byte p payload = s.extOrUnknown cmd p payload := by
  obtain ⟨haddress, hsearch⟩ := isExtParam_iff.1 h
  cases cmd with
  | read => exact (if_neg haddress).trans (if_neg hsearch)
  | write => exact (if_neg haddress).trans (if_neg hsearch)

end Dispatch

/-- The operation of each row does what Dispatch does with the row's frame. -/
theorem exec_of_localRow {d : LocalDest} {c p : Byte} {payload : List Byte} {i : Instr} (h : LocalRow d c p payload i)
    (s : State) : exec i s = .next (s.pseudoDispatch d.cls c p payload) := by
  cases h with
  | illLenRdSearch h =>
    have hgate : s.pseudoRdSearch d.cls payload = s.raise .lengthMismatch Config.pSearch := if_neg (by simpa using h)
    rw [pseudoDispatch_rdSearch, hgate]
    rfl
  | illLenWrSearch h =>
    have hgate : s.pseudoWrSearch payload = s.raise .lengthMismatch Config.pSearch := if_neg (by simpa using h)
    rw [pseudoDispatch_wrSearch, hgate]
    rfl
  | illLenWrAddr h1 h2 =>
    have hgate : s.pseudoWrAddr payload = s.raise .lengthMismatch Config.pAddress := if_neg (by simp [h1, h2])
    rw [pseudoDispatch_wrAddr, hgate]
    rfl
  | rdExt _ h =>
    have hport := (s.adoptExt_extOrUnknown .read p payload).trans (pseudoDispatch_ext s d.cls payload .read h).symm
    exact congrArg Host.Outcome.next hport
  | wrExt _ h =>
    have hport := (s.adoptExt_extOrUnknown .write p payload).trans (pseudoDispatch_ext s d.cls payload .write h).symm
    exact congrArg Host.Outcome.next hport
  | rdSearch probed =>
    rw [exec, execRdSearch, ← observePoll_selectedSlot s d probed]
    rfl
  | wrSearch slots =>
    rw [exec, execWrSearch, if_congr (State.needsSlot_iff _) rfl rfl]
    rfl
  | illCmd _ _ hread hwrite =>
    have hdispatch : s.pseudoDispatch d.cls c p payload = s.raise .unknownCommand 0 :=
      (if_neg hread).trans (if_neg hwrite)
    exact congrArg Host.Outcome.next hdispatch.symm
  | _ => rfl

/-- The pseudocode cuts a frame into the fields the decoder cuts it into (30_encoding.md R60). -/
theorem frame_fields {f : List Byte} {fr : Frame} (hparse : parseFrame f = .ok fr) :
    operandByte f 1 = fr.cmd ∧ operandByte f 2 = fr.param ∧ operandByte f 3 = BitVec.ofNat 8 fr.payload.length ∧
      (f.drop 4).take (BitVec.ofNat 8 fr.payload.length).toNat = fr.payload := by
  obtain ⟨rfl, hpayload⟩ := parseFrame_ok hparse
  rw [toNat_ofNat_length hpayload]
  exact ⟨rfl, rfl, rfl, List.take_left⟩

/-- `RouteForeign` does nothing with a frame that is no search reply with a good checksum. -/
theorem pseudoRouteForeign_of_ignored {fr : Frame} (hpayload : fr.payload.length ≤ 255)
    (h : isSnoopShape fr.dest fr.cmd fr.param fr.payload fr.ck = false) (s : State) :
    s.pseudoRouteForeign (checksumOk (frameBody fr.dest fr.cmd fr.param fr.payload ++ [fr.ck])) fr.cmd fr.param
      (BitVec.ofNat 8 fr.payload.length) fr.payload = s := by
  refine if_neg ?_
  rintro ⟨hsum, hread, hsearch, hlength⟩
  rw [checksumOk_append, decide_eq_true_eq] at hsum
  have hone : fr.payload.length = 1 := (lengthByte_eq hpayload (by decide)).1 hlength
  exact Bool.eq_false_iff.1 h (isSnoopShape_iff.2 ⟨hread, hsearch, List.length_eq_one_iff.1 hone, hsum⟩)

/-- A frame that decodes to a request to this unit is dispatched, and then the counter is fed. -/
theorem handleFrame_of_request {f : List Byte} {s : State} {d : LocalDest} {c p : Byte} {payload : List Byte}
    (hc : classify s.address (operandByte f 0) = d.cls)
    (hdecode : decode s.address f = .ok (decodeLocal d c p payload)) :
    handleFrame f s = .next ((s.setSuppression d.cls).pseudoDispatch d.cls c p payload).counterFeed := by
  rw [handleFrame_of_decode hdecode, hc, exec_of_localRow (localRow_decodeLocal ..)]
  rfl

/-- Settles O15: for each destination class, the decoder's row and the pseudocode's branch. -/
theorem handleFrameFollowsTheRoutingPseudocode : Obligations.HandleFrameFollowsTheRoutingPseudocode := by
  intro f s hexact
  obtain ⟨fr, hparse⟩ := parseFrame_isOk hexact
  have hdest := operandByte_dest hparse
  obtain ⟨hcmd, hparam, hlength, hpayload⟩ := frame_fields hparse
  simp only [State.pseudoHandleFrame, hdest, hcmd, hparam, hlength, hpayload]
  cases hc : classify s.address fr.dest with
  | foreign =>
    rcases decode_foreign_cases hparse hc with ⟨v, hf, hdecode⟩ | ⟨hshape, hdecode⟩
    · rw [handleFrame_foreign (hdest ▸ hc) hdecode]
      obtain ⟨a, c, p, payload, ck⟩ := fr
      dsimp only at hf
      cases hparse.symm.trans (hf ▸ parseFrame_frameOf (by simp))
      rw [hf, checksumOk_frameOf]
      rfl
    · rw [handleFrame_foreign (hdest ▸ hc) hdecode]
      obtain ⟨rfl, hfits⟩ := parseFrame_ok hparse
      dsimp only
      rw [pseudoRouteForeign_of_ignored hfits hshape]
      rfl
  | unicast =>
    by_cases hsum : checksumOk f = true
    · simp only [hsum, if_true]
      exact handleFrame_of_request (d := .unicast fr.dest) (hdest ▸ hc)
        ((decode_unicast hparse hc).trans (if_pos hsum))
    · simp only [handleFrame, decode_unicast hparse hc, hsum]
      rfl
  | broadcast =>
    by_cases hsum : checksumOk f = true
    · simp only [hsum, if_true]
      exact handleFrame_of_request (d := .broadcast) (hdest ▸ hc)
        ((decode_broadcast hparse hc).trans (if_pos hsum))
    · simp only [handleFrame, decode_broadcast hparse hc, hsum]
      rfl

/-- Settles O13: with a bad checksum neither route of the pseudocode does anything. -/
theorem badBroadcastOrForeignChecksumIsDropped : Obligations.BadBroadcastOrForeignChecksumIsDropped := by
  intro f s hexact hc hbad
  rw [handleFrameFollowsTheRoutingPseudocode f s hexact, ← setSuppression_classify s s.address]
  cases hclass : classify s.address (operandByte f 0) with
  | unicast => exact absurd hclass hc
  | broadcast => simp [State.pseudoHandleFrame, hclass, hbad]
  | foreign => simp [State.pseudoHandleFrame, State.pseudoRouteForeign, hclass, hbad]

end Sys2Proof.Proofs.Reception
end

section
/-! PROOFS. Dispatch and replies (41_dispatch_and_reply.md): what a reply and an error send (R123, R125, R129), what the
extension port does (R132), and that a frame draws at most one reply, a broadcast only by an opt-out (R126). -/

namespace Sys2Proof.Proofs.DispatchAndReply

open Sys2Proof Sys2Proof.Machine Sys2Proof.Proofs.Registers Sys2Proof.Proofs.StoreAndErrors
open Sys2Proof.Proofs.Encoding Sys2Proof.Proofs.Reception

/-! ## Replies and errors as operations -/

/-- Settles O17: each of the reply operations is a reply, which writes `tx` through the gate and nothing else. -/
theorem successRepliesAreGatedAndAddressed : Obligations.SuccessRepliesAreGatedAndAddressed := by
  intro s
  refine ⟨?_, ?_, ?_, ?_, fun p data => ⟨?_, ?_⟩⟩ <;> exact congrArg Host.Outcome.next (s.reply_eq _ _ _)

/-- Settles O19: each of the four operations raises its error, and the error's frame carries its text. -/
theorem illegalEncodingsRaise : Obligations.IllegalEncodingsRaise := by
  intro s d c p payload
  refine ⟨?_, ?_, ?_, ?_⟩ <;> exact congrArg Host.Outcome.next (s.raise_eq _ _)

/-! ## The extension port (41_dispatch_and_reply.md R132, R133) -/

section Extension

variable {s : State} {cmd : ExtCmd} {p : Byte} {payload : List Byte}

/-- The state `s` with the flag and `extState` as the handler's `Done` leaves them (R132). -/
def afterDone (s : State) (r : ExtDone) : State :=
  { s with
    respondSuppressed := s.respondSuppressed && !r.clear
    extState := r.extState }

/-- `Done` writes the flag and `extState` before its data, if any, goes out. -/
theorem extFinish_eq_afterDone (s : State) (cmd : ExtCmd) (p : Byte) (r : ExtDone) :
    s.extFinish cmd p r = r.out.elim (afterDone s r) fun out => (afterDone s r).reply cmd.byte p out.data := by
  have hflag : (if r.clear then false else s.respondSuppressed) = (s.respondSuppressed && !r.clear) := by
    cases r.clear <;> simp
  rw [State.extFinish, hflag]
  cases r.out <;> rfl

theorem extOrUnknown_of_unmapped (h : Config.extMapped cmd p = false) :
    s.extOrUnknown cmd p payload = s.raise .unknownParameter p := by
  simp [State.extOrUnknown, h]

theorem extOrUnknown_of_mapped (h : Config.extMapped cmd p = true) :
    s.extOrUnknown cmd p payload = s.extCall cmd p payload := by
  simp [State.extOrUnknown, h]

section Run

variable {body : ExtBody} (h : Config.extHandle s.drawIndex cmd p payload s.address s.extState = .run body)
include h

/-- A pool call that never ends hangs the unit with the pool as that call leaves it (log 2). -/
theorem extCall_of_endless (hrun : (runExt body s.pool).result = none) :
    s.extCall cmd p payload = { s.countDraw.withPool (runExt body s.pool).pool with hung := true } := by
  simp only [State.extCall, h, hrun]

/-- A handler that ends has made its pool calls and then finishes. -/
theorem extCall_of_done {r : ExtDone} (hrun : (runExt body s.pool).result = some r) :
    s.extCall cmd p payload = (s.countDraw.withPool (runExt body s.pool).pool).extFinish cmd p r := by
  simp only [State.extCall, h, hrun]

end Run

end Extension

/-- Settles O36: the request is the port's result, which is followed through its branches. -/
theorem extensionRequestsFollowTheirHandler : Obligations.ExtensionRequestsFollowTheirHandler := by
  intro d cmd p payload s
  refine Eq.trans (b := .next (s.extOrUnknown cmd p payload)) ?_ (congrArg Host.Outcome.next ?_)
  · cases cmd with
    | read | write => exact congrArg Host.Outcome.next (s.adoptExt_extOrUnknown _ p payload)
  cases hmapped : Config.extMapped cmd p with
  | false => exact extOrUnknown_of_unmapped hmapped
  | true =>
    rw [extOrUnknown_of_mapped hmapped, if_neg (by decide)]
    cases hhandle : Config.extHandle s.drawIndex cmd p payload s.address s.extState with
    | lengthError => exact extCall_of_lengthError hhandle
    | run body =>
      cases hrun : (runExt body s.pool).result with
      | none => simp only [extCall_of_endless hhandle hrun, hrun]; rfl
      | some r =>
        rw [extCall_of_done hhandle hrun, extFinish_eq_afterDone]
        simp only [hrun]
        cases r.out with
        | none => rfl
        | some out => cases cmd <;> rfl

/-! ## At most one frame, whole and from the unit's own address (41_dispatch_and_reply.md R126, R128) -/

/-- From `s` to `t` the unit sent nothing, or one frame that fits, from its address in `t`, the flag being clear. -/
def SendsAtMostOne (s t : State) : Prop :=
  t.tx = s.tx ∨
    t.respondSuppressed = false ∧
      ∃ c p data, data.length ≤ 255 ∧ t.tx = s.tx ++ [frameOf t.address c p data]

section Sends

variable {s u : State} (hu : u.tx = s.tx)
include hu

/-- A reply is gated by the flag (R125). -/
theorem reply_sendsAtMostOne (c p : Byte) {data : List Byte} (hd : data.length ≤ 255) :
    SendsAtMostOne s (u.reply c p data) := by
  cases hflag : u.respondSuppressed with
  | true => exact .inl (by simp [hflag, hu])
  | false => exact .inr ⟨hflag, c, p, data, hd, by simp [hflag, hu]⟩

theorem raise_sendsAtMostOne (e : ErrorCause) (p : Byte) : SendsAtMostOne s (u.raise e p) :=
  reply_sendsAtMostOne hu _ p ((length_errorText e).trans (by decide))

/-- A handler's reply carries its own length bound (R130). -/
theorem extFinish_sendsAtMostOne (cmd : ExtCmd) (p : Byte) (r : ExtDone) :
    SendsAtMostOne s (u.extFinish cmd p r) := by
  rw [extFinish_eq_afterDone]
  cases r.out with
  | none => exact .inl hu
  | some out => exact reply_sendsAtMostOne (u := afterDone u r) hu _ p out.fits

end Sends

theorem extCall_sendsAtMostOne (s : State) (cmd : ExtCmd) (p : Byte) (payload : List Byte) :
    SendsAtMostOne s (s.extCall cmd p payload) := by
  cases hhandle : Config.extHandle s.drawIndex cmd p payload s.address s.extState with
  | lengthError =>
    rw [extCall_of_lengthError hhandle]
    exact raise_sendsAtMostOne (u := s.countDraw) rfl _ p
  | run body =>
    cases hrun : (runExt body s.pool).result with
    | none => exact .inl (by rw [extCall_of_endless hhandle hrun]; rfl)
    | some r =>
      rw [extCall_of_done hhandle hrun]
      exact extFinish_sendsAtMostOne rfl cmd p r

/-- What an extension request takes over from the port includes at most one frame (log 6). -/
theorem adoptExt_sendsAtMostOne (s : State) (cmd : ExtCmd) (p : Byte) (payload : List Byte) :
    SendsAtMostOne s (s.adoptExt (s.extOrUnknown cmd p payload)) := by
  rw [State.adoptExt_extOrUnknown]
  cases hmapped : Config.extMapped cmd p with
  | false =>
    rw [extOrUnknown_of_unmapped hmapped]
    exact raise_sendsAtMostOne rfl _ p
  | true =>
    rw [extOrUnknown_of_mapped hmapped]
    exact extCall_sendsAtMostOne s cmd p payload

/-- Observing a poll sends nothing. -/
theorem observePoll_tx (s : State) (d : LocalDest) (probed : Byte) : (s.observePoll d probed).tx = s.tx := by
  rw [observePoll_eq]

/-- Every well-formed operation ends in at most one reply. -/
theorem exec_sendsAtMostOne {i : Instr} {s t : State} (hw : i.wellFormed = true) (h : exec i s = .next t) :
    SendsAtMostOne s t := by
  cases i with
  | wrSearch d slots =>
    cases h
    have htx : (if (s.beginRound slots).needsSlot then (s.beginRound slots).takeSlot
        else s.beginRound slots).tx = s.tx := by split <;> rfl
    exact State.whenLive_keeps (.inl htx) fun _ => reply_sendsAtMostOne htx _ _ (by simp)
  | rdSearch d probed =>
    cases h
    have htx := observePoll_tx s d probed
    split
    · exact State.whenLive_keeps (.inl htx) fun _ =>
        reply_sendsAtMostOne (u := (s.observePoll d probed).takeSlot.clearSuppression) htx _ _ (by simp)
    · exact .inl htx
  | wrAddr2 d new slot =>
    cases h
    split
    · exact reply_sendsAtMostOne rfl _ _ (by simp)
    · exact .inl rfl
  | rdExt d p payload => cases h; exact adoptExt_sendsAtMostOne s .read p payload
  | wrExt d p payload => cases h; exact adoptExt_sendsAtMostOne s .write p payload
  | rplExt cmd p data =>
    simp only [Instr.wellFormed, payloadFits, Bool.and_eq_true, decide_eq_true_eq] at hw
    obtain ⟨hd, -⟩ := hw
    cases h
    exact reply_sendsAtMostOne rfl _ p hd
  | rdAddr _ _ | wrAddr1 _ _ | rplRdAddr | rplRdSearch | rplWrAddr | rplWrSearch =>
    cases h; exact reply_sendsAtMostOne rfl _ _ (by simp)
  | illLenRdSearch _ _ | illLenWrAddr _ _ | illLenWrSearch _ _ | illCmd _ _ _ _
  | errBadChecksum | errUnhandledCommand | errInvalidLength _ | errInvalidParameter _ =>
    cases h; exact raise_sendsAtMostOne rfl _ _
  | snoopSearch _ _ | ignoreForeign _ _ _ _ _ | feed _ | readDigest | boundedInteger _ =>
    cases h; exact .inl rfl

/-- A frame that decodes is a well-formed operation, and one that does not raises at most one error. -/
theorem handleFrame_sendsAtMostOne {f : List Byte} {s t : State} (h : handleFrame f s = .next t) :
    SendsAtMostOne s t := by
  rcases handleFrame_cases h with rfl | ⟨i, u, hdecode, hexec, rfl⟩ | ⟨-, rfl⟩ | ⟨-, rfl⟩
  · exact .inl rfl
  · obtain ⟨-, hw, -⟩ := decodedFrameEncodesBack s.address 0 f i hdecode
    have hsends : SendsAtMostOne (s.setSuppression (classify s.address (operandByte f 0))) u :=
      exec_sendsAtMostOne hw hexec
    exact hsends
  · exact raise_sendsAtMostOne (u := s.setSuppression .unicast) rfl .frameIntegrity 0
  · exact .inl rfl

/-- Settles O21: the one frame is assembled by `frameOf`, whose length, checksum and first byte are known. -/
theorem atMostOneGoodFramePerFrame : Obligations.AtMostOneGoodFramePerFrame := by
  intro f s t h
  rcases handleFrame_sendsAtMostOne h with htx | ⟨-, c, p, data, hd, htx⟩
  · exact .inl htx
  · have hlength : (operandByte (frameOf t.address c p data) 3).toNat = data.length := toNat_ofNat_length hd
    exact .inr ⟨_, htx, by rw [length_frameOf, hlength], checksumOk_frameOf .., rfl⟩

/-! ## The opt-outs from suppression (41_dispatch_and_reply.md R126) -/

section OptOut

variable {f : List Byte} {s t : State} {d : LocalDest}

/-- A frame to the broadcast address that decodes is a request to every unit. -/
theorem localRow_of_broadcast {address : Byte} {i : Instr} (hdest : operandByte f 0 = 0xFF)
    (h : decode address f = .ok i) : ∃ c p payload, LocalRow .broadcast c p payload i := by
  cases hparse : parseFrame f with
  | error r => simp only [decode, hparse] at h; cases h
  | ok fr =>
    rw [operandByte_dest hparse] at hdest
    rw [decode_broadcast hparse (classify_eq_broadcast.2 hdest)] at h
    split at h
    · cases h; exact ⟨_, _, _, localRow_decodeLocal ..⟩
    · cases h

/-- A poll of another slot is not answered (43_arbitration.md R172). -/
theorem tx_of_unmatchedPoll {probed : Byte} (hslot : probed ≠ s.selectedSlot)
    (h : exec (.rdSearch d probed) s = .next t) : t.tx = s.tx := by
  cases h
  rw [if_neg hslot, observePoll_tx]

/-- A promotion for another slot is not answered (42_address_register.md R152). -/
theorem tx_of_unmatchedPromotion {new slot : Byte} (hslot : slot ≠ s.selectedSlot)
    (h : exec (.wrAddr2 d new slot) s = .next t) : t.tx = s.tx := by
  cases h
  rw [if_neg hslot]

/-- A request that clears the flag and sends a frame is one of the three opt-outs, a poll or a promotion only for the
unit's own slot. -/
theorem optOut_of_reply {c p : Byte} {payload : List Byte} {i : Instr} (row : LocalRow d c p payload i)
    (h : exec i s = .next t) (hflag : t.respondSuppressed ≠ s.respondSuppressed) (htx : t.tx ≠ s.tx) :
    i = .rdSearch d s.selectedSlot ∨ (∃ new, i = .wrAddr2 d new s.selectedSlot) ∨
      ∃ p payload, i = .rdExt d p payload ∨ i = .wrExt d p payload := by
  obtain ⟨-, -, -, -, hwriters, -⟩ := registersChangeOnlyByTheirWriters i s t h
  obtain ⟨-, hwriter⟩ := hwriters hflag
  cases row with
  | rdSearch probed =>
    obtain rfl : probed = s.selectedSlot := by_contra fun hslot => htx (tx_of_unmatchedPoll hslot h)
    exact .inl rfl
  | wrAddr2 new slot =>
    obtain rfl : slot = s.selectedSlot := by_contra fun hslot => htx (tx_of_unmatchedPromotion hslot h)
    exact .inr (.inl ⟨new, rfl⟩)
  | rdExt payload _ => exact .inr (.inr ⟨p, payload, .inl rfl⟩)
  | wrExt payload _ => exact .inr (.inr ⟨p, payload, .inr rfl⟩)
  | _ => simp [Instr.requestRow] at hwriter

end OptOut

/-- Settles O22: a broadcast sets the flag and a frame goes out only with it clear, so the operation has cleared it. -/
theorem broadcastRepliesOnlyAfterOptOut : Obligations.BroadcastRepliesOnlyAfterOptOut := by
  intro f s t hdest h htx
  obtain ⟨hclear, -⟩ := (handleFrame_sendsAtMostOne h).resolve_left htx
  refine ⟨hclear, ?_⟩
  rcases handleFrame_cases h with rfl | ⟨i, u, hdecode, hexec, rfl⟩ | ⟨hbad, rfl⟩ | ⟨-, rfl⟩
  · exact absurd rfl htx
  · obtain ⟨c, p, payload, row⟩ := localRow_of_broadcast hdest hdecode
    rw [setSuppression_classify, hdest] at hexec
    have hflag : u.respondSuppressed ≠ true := Bool.eq_false_iff.1 hclear
    simpa [hdecode] using optOut_of_reply row hexec hflag htx
  · exact absurd hdest (classify_eq_unicast.1 (classify_of_badChecksumUnicast hbad)).1
  · exact absurd rfl htx

end Sys2Proof.Proofs.DispatchAndReply
end

section
/-! PROOFS. The address register (42_address_register.md): reading it (R150), the plain write that stores and
acknowledges (R151, R154), and the promotion, which is that write with suppression opted out of (R152). -/

namespace Sys2Proof.Proofs.AddressRegister

open Sys2Proof Sys2Proof.Machine

/-- Settles O23: the request is the reply with the address as its one data byte. -/
theorem readAddressRepliesTheAddress : Obligations.ReadAddressRepliesTheAddress := by
  intro d payload s
  exact congrArg Host.Outcome.next (s.reply_eq Config.cmdRead Config.pAddress [s.address])

/-- The acknowledgement of an address write goes out from the new address (42_address_register.md R151). -/
theorem exec_wrAddr1_eq (d : LocalDest) (new : Byte) (s : State) :
    exec (.wrAddr1 d new) s = .next { s with
      address := new
      nvm := s.nvm.write Config.addrNvmOffset new
      tx := if s.respondSuppressed then s.tx else s.tx ++ [frameOf new 0x81 0x01 []] } :=
  congrArg Host.Outcome.next ((s.storeAddress new).reply_eq Config.cmdWrite Config.pAddress [])

/-- Settles O24: the NVM is written at one offset, where a read gives the new byte. -/
theorem writeAddressStoresAndAcknowledges : Obligations.WriteAddressStoresAndAcknowledges := by
  intro d new s hcanonical
  exact ⟨_, exec_wrAddr1_eq d new s, rfl, fun off => Memory.read_write s.nvm _ off new hcanonical⟩

/-- A promotion for the unit's own slot is the plain write with the flag cleared (42_address_register.md R152). -/
theorem exec_wrAddr2_of_match (d : LocalDest) (new : Byte) (s : State) :
    exec (.wrAddr2 d new s.selectedSlot) s = exec (.wrAddr1 d new) s.clearSuppression :=
  congrArg Host.Outcome.next (if_pos rfl)

/-- A promotion for another slot does nothing (42_address_register.md R152). -/
theorem exec_wrAddr2_of_mismatch {slot : Byte} {s : State} (hslot : slot ≠ s.selectedSlot) (d : LocalDest)
    (new : Byte) : exec (.wrAddr2 d new slot) s = .next s :=
  congrArg Host.Outcome.next (if_neg hslot)

/-- Settles O25: an honoured promotion is a plain write with the flag clear, so it is always acknowledged. -/
theorem promotionIsHonouredOnlyOnMatch : Obligations.PromotionIsHonouredOnlyOnMatch := by
  intro d new slot s hcanonical
  refine ⟨?_, fun hslot => exec_wrAddr2_of_mismatch hslot d new⟩
  rintro rfl
  rw [exec_wrAddr2_of_match]
  exact writeAddressStoresAndAcknowledges d new s.clearSuppression hcanonical

end Sys2Proof.Proofs.AddressRegister
end

section
/-! PROOFS. Arbitration (43_arbitration.md): what a slot selection gives (R175, R176, R178), the four search operations
built on it (R171 to R174), and the invariant that every step keeps (R177). -/

namespace Sys2Proof.Proofs.Arbitration

open Sys2Proof Sys2Proof.Machine Sys2Proof.Proofs.Registers Sys2Proof.Proofs.StoreAndErrors
open Sys2Proof.Proofs.Encoding Sys2Proof.Proofs.Reception Sys2Proof.Proofs.DispatchAndReply

/-! ## The attempts of a selection (43_arbitration.md R176) -/

section Selection

variable {n v : Byte} {used : List Byte} {q : Pool} {k tries : Nat}

/-- A bounded draw is at most its bound (44_entropy_pool.md R210). -/
theorem boundedInteger_le {max : Byte} (h : (boundedInteger max q).value = some v) : v ≤ max := by
  unfold boundedInteger at h
  split at h
  · cases h; exact Nat.zero_le _
  · exact drawLoop_le h

/-- A candidate is a slot of the round (43_arbitration.md R175). -/
theorem drawSlot_inRange (hn : n ≠ 0) (h : (drawSlot n q).value = some v) : 1 ≤ v ∧ v ≤ n := by
  obtain ⟨c, hc, rfl⟩ := Option.map_eq_some_iff.1 h
  have hle := boundedInteger_le hc
  constructor <;> bv_omega

/-- A candidate is drawn by one bounded draw and fails to come exactly if that draw never ends. -/
theorem drawSlot_none_iff : (drawSlot n q).value = none ↔ Endless (n - 1) q :=
  Option.map_eq_none_iff.trans boundedInteger_none_iff

/-- Of the first candidates either one ends the selection, the earlier ones being used slots, or all are used slots. -/
theorem firstStop_or_allFail (n : Byte) (used : List Byte) (q : Pool) (tries : Nat) :
    (∃ k < tries, (∀ j < k, AttemptFails n used q j) ∧ ¬ AttemptFails n used q k) ∨
      ∀ j < tries, AttemptFails n used q j := by
  classical
  by_cases h : ∃ k < tries, ¬ AttemptFails n used q k
  · obtain ⟨hlt, hstop⟩ := Nat.find_spec h
    exact .inl ⟨_, hlt, fun j hj => by_contra fun hf => Nat.find_min h hj ⟨hj.trans hlt, hf⟩, hstop⟩
  · push Not at h
    exact .inr h

theorem selectLoop_of_fail (h : AttemptFails n used q 0) :
    selectLoop n used (tries + 1) q = selectLoop n used tries (drawSlot n q).pool := by
  obtain ⟨c, hmem, hc⟩ := h
  replace hc : (drawSlot n q).value = some c := hc
  simp only [selectLoop, hc, if_pos hmem]

theorem selectLoop_of_stop (h : ¬ AttemptFails n used q 0) : selectLoop n used (tries + 1) q = drawSlot n q := by
  simp only [selectLoop]
  split
  · rfl
  · rename_i c hc
    exact if_neg fun hmem => h ⟨c, hmem, hc⟩

/-- The first candidate that is not a used slot ends the loop, with what its draw gives. -/
theorem selectLoop_of_firstStop (hk : k < tries) (hfails : ∀ j < k, AttemptFails n used q j)
    (hstop : ¬ AttemptFails n used q k) : selectLoop n used tries q = drawSlot n (Pool.afterSlots n k q) := by
  obtain ⟨m, rfl⟩ : ∃ m, tries = m + 1 := ⟨tries - 1, by omega⟩
  induction k generalizing q m with
  | zero => exact selectLoop_of_stop hstop
  | succ k ih =>
    obtain ⟨m, rfl⟩ : ∃ l, m = l + 1 := ⟨m - 1, by omega⟩
    rw [selectLoop_of_fail (hfails 0 k.succ_pos)]
    exact ih (fun j hj => hfails (j + 1) (by omega)) hstop m (by omega)

/-- When every candidate is a used slot the loop gives the sentinel (R178). -/
theorem selectLoop_of_allFail (hfails : ∀ j < tries, AttemptFails n used q j) :
    selectLoop n used tries q = ⟨some 0, Pool.afterSlots n tries q⟩ := by
  induction tries generalizing q with
  | zero => rfl
  | succ m ih =>
    rw [selectLoop_of_fail (hfails 0 m.succ_pos)]
    exact ih fun j hj => hfails (j + 1) (by omega)

theorem selectSlot_of_ne_zero (hn : n ≠ 0) : selectSlot n used q = selectLoop n used Config.retryBound q := if_neg hn

/-- A selection in a round with slots: its first candidate that is not a used slot, or the sentinel. -/
theorem selectSlot_cases (hn : n ≠ 0) (used : List Byte) (q : Pool) :
    (∃ k < Config.retryBound, (∀ j < k, AttemptFails n used q j) ∧ ¬ AttemptFails n used q k ∧
      selectSlot n used q = drawSlot n (Pool.afterSlots n k q)) ∨
    selectSlot n used q = ⟨some 0, Pool.afterSlots n Config.retryBound q⟩ := by
  rw [selectSlot_of_ne_zero hn]
  rcases firstStop_or_allFail n used q Config.retryBound with ⟨k, hk, hfails, hstop⟩ | hfails
  · exact .inl ⟨k, hk, hfails, hstop, selectLoop_of_firstStop hk hfails hstop⟩
  · exact .inr (selectLoop_of_allFail hfails)

/-- An attempt whose draw never ends is not a used slot. -/
theorem not_attemptFails_of_endless (h : Endless (n - 1) (Pool.afterSlots n k q)) : ¬ AttemptFails n used q k := by
  rintro ⟨c, -, hc⟩
  rw [drawSlot_none_iff.2 h] at hc
  cases hc

/-- A selection never ends exactly if it reaches a draw that never ends (44_entropy_pool.md R212). -/
theorem selectSlot_none_iff : (selectSlot n used q).value = none ↔ SelectionEndless n used q := by
  constructor
  · intro hnone
    have hn : n ≠ 0 := by rintro rfl; cases hnone
    rcases selectSlot_cases hn used q with ⟨k, hk, hfails, -, heq⟩ | heq
    · exact ⟨hn, k, hk, hfails, drawSlot_none_iff.1 (heq ▸ hnone)⟩
    · rw [heq] at hnone; cases hnone
  · rintro ⟨hn, k, hk, hfails, hend⟩
    rw [selectSlot_of_ne_zero hn, selectLoop_of_firstStop hk hfails (not_attemptFails_of_endless hend)]
    exact drawSlot_none_iff.2 hend

end Selection

/-- Settles O50: the attempt that ends the selection is known from the candidates before it. -/
theorem selectionTakesTheFirstFreeCandidate : Obligations.SelectionTakesTheFirstFreeCandidate := by
  intro n used q
  refine ⟨?_, fun hn k v hk hfails hv hfree => ?_, fun hn hfails => ?_, selectSlot_none_iff⟩
  · rintro rfl
    exact selectSlot_zero used q
  · have hstop : ¬ AttemptFails n used q k := by
      rintro ⟨c, hmem, hc⟩
      obtain rfl : c = v := Option.some.inj (hc.symm.trans hv)
      exact hfree hmem
    rw [selectSlot_of_ne_zero hn, selectLoop_of_firstStop hk hfails hstop]
  · rw [selectSlot_of_ne_zero hn, selectLoop_of_allFail hfails]

/-- Settles O33: a selection gives the sentinel or a candidate, which lies in the round and ended it by being free. -/
theorem selectedSlotIsFreeAndInRange : Obligations.SelectedSlotIsFreeAndInRange := by
  intro n used q v hv
  by_cases hn : n = 0
  · subst hn; cases hv; exact .inl rfl
  rcases selectSlot_cases hn used q with ⟨k, -, -, hstop, heq⟩ | heq
  · rw [heq] at hv
    obtain ⟨hlow, hhigh⟩ := drawSlot_inRange hn hv
    exact .inr ⟨hlow, hhigh, fun hmem => hstop ⟨v, hmem, hv⟩⟩
  · rw [heq] at hv
    cases hv
    exact .inl rfl

/-- Settles O34: no slot of the round is free, which leaves the sentinel. -/
theorem fullSetExhaustsTheSelection : Obligations.FullSetExhaustsTheSelection := by
  intro n used q hfull v hv
  rcases selectedSlotIsFreeAndInRange n used q v hv with rfl | ⟨hlow, hhigh, hfree⟩
  · rfl
  · exact absurd (hfull v hlow hhigh) hfree

/-- Settles O35: with no slot used the first candidate is free, and it is one bounded draw. -/
theorem freshRoundTakesTheFirstCandidate : Obligations.FreshRoundTakesTheFirstCandidate := by
  intro n q hn
  refine ⟨?_, rfl, ?_, fun hn1 => ?_, fun v => drawSlot_inRange hn⟩
  · have hstop : ¬ AttemptFails n [] q 0 := by rintro ⟨c, hmem, -⟩; cases hmem
    rw [selectSlot_of_ne_zero hn]
    exact selectLoop_of_stop hstop
  · rintro rfl
    exact drawSlot_one q
  · rcases boundedInteger_cases (n - 1) q with ⟨hzero, -⟩ | ⟨-, m, c, ⟨hnone, hsome⟩, heq⟩ | ⟨hend, -⟩
    · exact absurd hzero (by bv_omega)
    · exact .inr ⟨m, c, hnone, hsome, by rw [drawSlot, heq]; rfl⟩
    · exact .inl ⟨drawSlot_none_iff.2 hend, hend⟩

/-! ## The search operations (43_arbitration.md R171 to R174) -/

section Search

variable {s : State} {v : Byte}

/-- An insertion adds a value that is new where there is room, and else changes nothing (43_arbitration.md R174). -/
theorem usedInsert_eq (s : State) (v : Byte) :
    s.usedInsert v = { s with usedSlots :=
      if v ∈ s.usedSlots ∨ Config.usedCap ≤ s.usedSlots.length then s.usedSlots else s.usedSlots ++ [v] } := by
  unfold State.usedInsert
  by_cases hmem : v ∈ s.usedSlots
  · simp [hmem]
  · by_cases hfull : Config.usedCap ≤ s.usedSlots.length
    · simp [hmem, hfull]
    · simp [hmem, hfull, Nat.lt_of_not_le hfull]

theorem usedInsert_of_idle (h : v ∈ s.usedSlots ∨ Config.usedCap ≤ s.usedSlots.length) : s.usedInsert v = s := by
  rw [usedInsert_eq, if_pos h]

/-- A poll is an observation of the polled slot unless it is a broadcast (43_arbitration.md R172). -/
theorem observePoll_eq_ite (s : State) (d : LocalDest) (probed : Byte) :
    s.observePoll d probed = if d = .broadcast then s else s.usedInsert probed := by
  cases d <;> rfl

/-- With a valid carried-over slot a round begins without a draw (43_arbitration.md R171). -/
theorem exec_wrSearch_of_validSlot {n : Byte} (hslot : s.selectedSlot ≠ 0) (hle : s.selectedSlot ≤ n)
    (d : LocalDest) : exec (.wrSearch d n) s =
      .next ((s.beginRound n).whenLive fun t => t.reply Config.cmdWrite Config.pSearch []) := by
  have hkeep : ¬ (s.beginRound n).needsSlot = true := by
    rw [State.needsSlot_iff]
    exact not_or.2 ⟨hslot, BitVec.not_lt.2 hle⟩
  simp only [exec, execWrSearch, if_neg hkeep]

/-- Without one a slot is drawn. -/
theorem exec_wrSearch_of_needsSlot {n : Byte} (h : s.selectedSlot = 0 ∨ n < s.selectedSlot) (d : LocalDest) :
    exec (.wrSearch d n) s =
      .next ((s.beginRound n).takeSlot.whenLive fun t => t.reply Config.cmdWrite Config.pSearch []) := by
  have hneeds : (s.beginRound n).needsSlot = true := (State.needsSlot_iff _).2 h
  simp only [exec, execWrSearch, if_pos hneeds]

theorem exec_rdSearch_of_mismatch {probed : Byte} (h : probed ≠ s.selectedSlot) (d : LocalDest) :
    exec (.rdSearch d probed) s = .next (s.observePoll d probed) :=
  congrArg Host.Outcome.next (if_neg h)

theorem exec_rdSearch_of_match (d : LocalDest) (s : State) :
    exec (.rdSearch d s.selectedSlot) s =
      .next ((s.observePoll d s.selectedSlot).takeSlot.whenLive fun t =>
        t.clearSuppression.reply Config.cmdRead Config.pSearch [t.nextSlot]) :=
  congrArg Host.Outcome.next (if_pos rfl)

/-- Where the draw never ends the unit hangs with its slot registers as they were (log 2). -/
theorem whenLive_takeSlot_of_endless {r : Pool} (hdraw : selectSlot s.slotCount s.usedSlots s.pool = ⟨none, r⟩)
    (rest : State → State) :
    s.takeSlot.whenLive rest = { s with acc := r.acc, digest := r.digest, hung := true } := by
  rw [State.whenLive_hung (by simp [hdraw])]
  simp [State.takeSlot, hdraw]

/-- A draw that ends writes both slot registers, and the operation goes on (10_state.md R14). -/
theorem whenLive_takeSlot_of_some {r : Pool} (hlive : s.hung = false)
    (hdraw : selectSlot s.slotCount s.usedSlots s.pool = ⟨some v, r⟩) (rest : State → State) :
    s.takeSlot.whenLive rest =
      rest { s with selectedSlot := v, nextSlot := v, acc := r.acc, digest := r.digest } := by
  rw [State.whenLive_live (by simp [hlive, hdraw])]
  simp [State.takeSlot, hdraw]

end Search

/-- Settles O27: SNOOP_SEARCH is an insertion, which adds a new slot only where there is room. -/
theorem snoopRecordsTheAdvertisedSlot : Obligations.SnoopRecordsTheAdvertisedSlot := by
  intro a v s
  refine ⟨fun hmem => ?_, fun hnew hroom => ?_, fun hnew hfull => ?_⟩
  · exact congrArg Host.Outcome.next (usedInsert_of_idle (.inl hmem))
  · have hadd : ¬ (v ∈ s.usedSlots ∨ Config.usedCap ≤ s.usedSlots.length) := not_or.2 ⟨hnew, hroom.not_ge⟩
    exact congrArg Host.Outcome.next (by rw [usedInsert_eq, if_neg hadd])
  · exact congrArg Host.Outcome.next (usedInsert_of_idle (.inr hfull))

/-- Settles O31: the poll is an observation at most, a unicast one an insertion. -/
theorem unmatchedPollIsSilent : Obligations.UnmatchedPollIsSilent := by
  intro a probed s hother
  rw [exec_rdSearch_of_mismatch hother, exec_rdSearch_of_mismatch hother]
  exact ⟨rfl, congrArg Host.Outcome.next (usedInsert_eq s probed)⟩

/-- Settles O29: with a valid slot the registers that begin the round are all that is written before the reply. -/
theorem startRoundKeepsAValidSlot : Obligations.StartRoundKeepsAValidSlot := by
  intro d n s hlive hslot hle
  rw [exec_wrSearch_of_validSlot hslot hle, State.whenLive_live (s := s.beginRound n) hlive]
  rfl

/-- Settles O30: the round begins, a slot is drawn, and the acknowledgement goes out unless the draw hangs the unit. -/
theorem startRoundSelectsASlot : Obligations.StartRoundSelectsASlot := by
  intro d n s hlive hslot
  rw [exec_wrSearch_of_needsSlot hslot]
  refine congrArg Host.Outcome.next ?_
  rcases hdraw : selectSlot n [] s.pool with ⟨_ | v, r⟩
  · rw [whenLive_takeSlot_of_endless (s := s.beginRound n) hdraw]
    simp [State.beginRound]
  · rw [whenLive_takeSlot_of_some (s := s.beginRound n) hlive hdraw]
    simp [State.beginRound, State.reply_eq, hlive]

/-- Settles O32: the observation is made, a slot is drawn, and the reply opts out of suppression unless the draw hangs
the unit. -/
theorem matchedPollRedrawsAndReplies : Obligations.MatchedPollRedrawsAndReplies := by
  rintro d s _ _ hlive rfl rfl
  obtain ⟨used, hobserve⟩ : ∃ used, s.observePoll d s.selectedSlot = { s with usedSlots := used } :=
    ⟨_, observePoll_eq s d s.selectedSlot⟩
  rw [exec_rdSearch_of_match, ← observePoll_eq_ite, hobserve]
  refine congrArg Host.Outcome.next ?_
  rcases hdraw : selectSlot s.slotCount used s.pool with ⟨_ | v, r⟩
  · rw [whenLive_takeSlot_of_endless (s := { s with usedSlots := used }) hdraw]
    simp
  · rw [whenLive_takeSlot_of_some (s := { s with usedSlots := used }) hlive hdraw]
    simp [State.clearSuppression, State.reply_eq, hlive]

/-! ## The extension port and the pool (41_dispatch_and_reply.md R132, R133) -/

/-- An extension request leaves the pool to its handler, and hangs the unit or leaves the flag `hung`. -/
theorem extOrUnknown_pool_cases (s : State) (cmd : ExtCmd) (p : Byte) (payload : List Byte) :
    ((s.extOrUnknown cmd p payload).pool = s.pool ∧ (s.extOrUnknown cmd p payload).hung = s.hung) ∨
      ∃ body, (s.extOrUnknown cmd p payload).pool = (runExt body s.pool).pool ∧
        ((s.extOrUnknown cmd p payload).hung = true ∨ (s.extOrUnknown cmd p payload).hung = s.hung) := by
  cases hmapped : Config.extMapped cmd p with
  | false => rw [extOrUnknown_of_unmapped hmapped]; exact .inl ⟨rfl, rfl⟩
  | true =>
    rw [extOrUnknown_of_mapped hmapped]
    cases hhandle : Config.extHandle s.drawIndex cmd p payload s.address s.extState with
    | lengthError => rw [extCall_of_lengthError hhandle]; exact .inl ⟨rfl, rfl⟩
    | run body =>
      refine .inr ⟨body, ?_⟩
      cases hrun : (runExt body s.pool).result with
      | none => rw [extCall_of_endless hhandle hrun]; exact ⟨rfl, .inl rfl⟩
      | some r =>
        rw [extCall_of_done hhandle hrun, extFinish_eq_afterDone]
        cases r.out with
        | none => exact ⟨rfl, .inr rfl⟩
        | some out => exact ⟨rfl, .inr rfl⟩

/-- An extension request ends no hang. -/
theorem live_of_extOrUnknown {s : State} {cmd : ExtCmd} {p : Byte} {payload : List Byte}
    (h : (s.extOrUnknown cmd p payload).hung = false) : s.hung = false := by
  rcases extOrUnknown_pool_cases s cmd p payload with ⟨-, hhung⟩ | ⟨body, -, hhung | hhung⟩
  · exact hhung ▸ h
  · rw [hhung] at h; cases h
  · exact hhung ▸ h

theorem extOrUnknown_digest {s : State} (h : s.digest.length = Config.digestLen) (cmd : ExtCmd) (p : Byte)
    (payload : List Byte) : (s.extOrUnknown cmd p payload).digest.length = Config.digestLen := by
  rw [← State.pool_digest]
  rcases extOrUnknown_pool_cases s cmd p payload with ⟨hpool, -⟩ | ⟨body, hpool, -⟩
  · rw [hpool]; exact h
  · rw [hpool]; exact runExt_digest body s.pool h

/-- A bounded draw of a handler or of the pool port leaves a digest of the right length (10_state.md R19). -/
theorem boundedInteger_digestLength {q : Pool} (h : q.digest.length = Config.digestLen) (max : Byte) :
    (boundedInteger max q).pool.digest.length = Config.digestLen := by
  rcases boundedInteger_digest max q with hpool | hlength
  · rw [hpool]; exact h
  · exact hlength

/-! ## The registers of arbitration under every operation (43_arbitration.md R177) -/

section Registers

variable {s t : State} {i : Instr}

/-- The clauses of `State.Inv` on what a redraw or an insertion writes. -/
structure RegistersSound (s : State) : Prop where
  slotInRange : s.hung = false → s.selectedSlot = 0 ∨ s.selectedSlot ≤ s.slotCount
  slotAlias : s.nextSlot = s.selectedSlot
  usedFits : s.usedSlots.length ≤ Config.usedCap
  usedSet : s.usedSlots.Nodup
  digestLength : s.digest.length = Config.digestLen

/-- An insertion adds a new value, and only while there is room (43_arbitration.md R174). -/
theorem RegistersSound.usedInsert (hs : RegistersSound s) (v : Byte) : RegistersSound (s.usedInsert v) := by
  rcases s.usedInsert_cases v with hused | ⟨hused, hnew, hroom⟩
  · exact { hs with usedFits := hused ▸ hs.usedFits, usedSet := hused ▸ hs.usedSet }
  · have hset : (s.usedSlots ++ [v]).Nodup := hs.usedSet.append (List.nodup_singleton v) (by simpa using hnew)
    have hfits : (s.usedSlots ++ [v]).length ≤ Config.usedCap := by simpa using hroom
    exact { hs with usedFits := hused ▸ hfits, usedSet := hused ▸ hset }

theorem RegistersSound.observePoll (hs : RegistersSound s) (d : LocalDest) (probed : Byte) :
    RegistersSound (s.observePoll d probed) := by
  rw [observePoll_eq_ite]
  split
  · exact hs
  · exact hs.usedInsert probed

/-- A redraw brings the slot into the round whatever it was, and hangs the unit if it gives none. -/
theorem takeSlot_registersSound (halias : s.nextSlot = s.selectedSlot) (hfits : s.usedSlots.length ≤ Config.usedCap)
    (hset : s.usedSlots.Nodup) (hdigest : s.digest.length = Config.digestLen) : RegistersSound s.takeSlot where
  slotInRange hlive := by
    rcases hdraw : selectSlot s.slotCount s.usedSlots s.pool with ⟨_ | v, r⟩
    · simp [hdraw] at hlive
    · have hrange := selectedSlotIsFreeAndInRange s.slotCount s.usedSlots s.pool v (by rw [hdraw])
      simpa [hdraw] using hrange.imp_right fun ⟨_, hle, _⟩ => hle
  slotAlias := by simp [halias]
  usedFits := hfits
  usedSet := hset
  digestLength := by
    rw [State.takeSlot_digest]
    rcases selectSlot_digest s.slotCount s.usedSlots s.pool with hpool | hlength
    · rw [hpool]; exact hdigest
    · exact hlength

theorem exec_wrSearch_registersSound {d : LocalDest} {n : Byte} (hs : RegistersSound s)
    (h : exec (.wrSearch d n) s = .next t) : RegistersSound t := by
  have hempty : ([] : List Byte).length ≤ Config.usedCap := Nat.zero_le _
  by_cases hslot : s.selectedSlot = 0 ∨ n < s.selectedSlot
  · have hdrawn : RegistersSound (s.beginRound n).takeSlot :=
      takeSlot_registersSound hs.slotAlias hempty List.nodup_nil hs.digestLength
    rw [exec_wrSearch_of_needsSlot hslot] at h
    cases h
    exact State.whenLive_keeps hdrawn fun _ => { hdrawn with }
  · obtain ⟨hne, hle⟩ := not_or.1 hslot
    have hround : RegistersSound (s.beginRound n) :=
      { hs with slotInRange := fun _ => .inr (BitVec.not_lt.1 hle), usedFits := hempty, usedSet := List.nodup_nil }
    rw [exec_wrSearch_of_validSlot hne (BitVec.not_lt.1 hle)] at h
    cases h
    exact State.whenLive_keeps hround fun _ => { hround with }

theorem exec_rdSearch_registersSound {d : LocalDest} {probed : Byte} (hs : RegistersSound s)
    (h : exec (.rdSearch d probed) s = .next t) : RegistersSound t := by
  have hobserved := hs.observePoll d probed
  by_cases hslot : probed = s.selectedSlot
  · subst hslot
    obtain ⟨-, halias, hfits, hset, hdigest⟩ := hobserved
    have hdrawn := takeSlot_registersSound halias hfits hset hdigest
    rw [exec_rdSearch_of_match] at h
    cases h
    exact State.whenLive_keeps hdrawn fun _ => { hdrawn with }
  · rw [exec_rdSearch_of_mismatch hslot] at h
    cases h
    exact hobserved

theorem exec_registersSound (hs : RegistersSound s) (h : exec i s = .next t) : RegistersSound t := by
  cases i with
  | wrSearch d n => exact exec_wrSearch_registersSound hs h
  | rdSearch d probed => exact exec_rdSearch_registersSound hs h
  | snoopSearch a v => cases h; exact hs.usedInsert v
  | rdExt d p payload | wrExt d p payload =>
    cases h
    exact { hs with
      slotInRange := fun hlive => hs.slotInRange (live_of_extOrUnknown hlive)
      digestLength := extOrUnknown_digest hs.digestLength .. }
  | readDigest => cases h; exact { hs with digestLength := length_hashFinal _ }
  | boundedInteger max =>
    cases h
    exact { hs with
      slotInRange := fun hlive => hs.slotInRange (Bool.or_eq_false_iff.1 hlive).1
      digestLength := boundedInteger_digestLength hs.digestLength max }
  | wrAddr2 d new slot => cases h; split <;> exact { hs with }
  | _ => cases h; exact { hs with }

end Registers

/-! ## The invariant -/

section Invariant

variable {s t : State} {i : Instr}

/-- The invariant but for the open frame, which while a chunk is drained may be followed by complete ones. -/
def BetweenFrames (s : State) : Prop := ({ s with rxbuf := [] } : State).Inv

theorem inv_iff : s.Inv ↔ BetweenFrames s ∧ Drained s := by
  constructor
  · intro hs
    refine ⟨{ hs with frameOpen := fun _ => rfl }, ?_⟩
    cases hh : s.hung with
    | true => exact .inl hh
    | false => exact .inr (hs.frameOpen hh)
  · rintro ⟨hs, hdrained⟩
    exact { hs with frameOpen := fun hlive => hdrained.resolve_left (Bool.eq_false_iff.1 hlive) }

/-- An address write stores the register and its cell together (42_address_register.md R154). -/
theorem exec_addressStored (h : exec i s = .next t) (hcanonical : s.nvm.wf = true)
    (hstored : s.nvm.read Config.addrNvmOffset = s.address) :
    t.nvm.wf = true ∧ t.nvm.read Config.addrNvmOffset = t.address := by
  rcases exec_address_nvm h with ⟨haddress, hnvm⟩ | hnvm
  · rw [hnvm, haddress]; exact ⟨hcanonical, hstored⟩
  · rw [hnvm, Memory.read_write s.nvm _ _ _ hcanonical, if_pos rfl]
    exact ⟨Memory.wf_write s.nvm _ addrNvmOffset_lt hcanonical, rfl⟩

theorem frameGood_of_sendsAtMostOne (h : SendsAtMostOne s t) (hs : ∀ f ∈ s.tx, frameGood f = true) :
    ∀ f ∈ t.tx, frameGood f = true := by
  rcases h with htx | ⟨-, c, p, data, hd, htx⟩
  · rw [htx]; exact hs
  · rw [htx]
    exact List.forall_mem_append.2 ⟨hs, List.forall_mem_singleton.2 (frameGood_frameOf hd)⟩

theorem exec_betweenFrames (hw : i.wellFormed = true) (hs : BetweenFrames s) (h : exec i s = .next t) :
    BetweenFrames t := by
  have hregisters : RegistersSound t := exec_registersSound (s := s) { hs with } h
  obtain ⟨-, -, hport⟩ := exec_keeps_input h
  obtain ⟨hcanonical, hstored⟩ := exec_addressStored h hs.nvmCanonical hs.addressStored
  have hsent : ∀ f ∈ t.tx, frameGood f = true := frameGood_of_sendsAtMostOne (exec_sendsAtMostOne hw h) hs.sentGood
  exact { hregisters with
    frameOpen := fun _ => rfl
    nvmCanonical := hcanonical
    addressStored := hstored
    portIdle := hport.trans hs.portIdle
    sentGood := hsent }

/-- A frame decodes to a well-formed operation, raises an error as the operation ERR_BAD_CHECKSUM does, or is dropped;
the flag and the counter feed around it are no part of the invariant (40_frame_reception.md R97). -/
theorem handleFrame_betweenFrames {f : List Byte} (hs : BetweenFrames s) (h : handleFrame f s = .next t) :
    BetweenFrames t := by
  have hflag (d : DestClass) : BetweenFrames (s.setSuppression d) := { hs with }
  have hfeed {u : State} (hu : BetweenFrames u) : BetweenFrames u.counterFeed := { hu with }
  rcases handleFrame_cases h with rfl | ⟨i, u, hdecode, hexec, rfl⟩ | ⟨-, rfl⟩ | ⟨-, rfl⟩
  · exact hs
  · obtain ⟨-, hw, -⟩ := decodedFrameEncodesBack s.address 0 f i hdecode
    exact hfeed (exec_betweenFrames hw (hflag _) hexec)
  · exact hfeed (exec_betweenFrames (i := .errBadChecksum) rfl (hflag .unicast) rfl)
  · exact hfeed (hflag .broadcast)

/-- Receiving keeps the invariant frame by frame, and no complete frame is left (40_frame_reception.md R96, R102). -/
theorem receive_inv {bs : List Byte} (hs : BetweenFrames s) (h : receive bs s = .next t) : t.Inv :=
  inv_iff.2 ⟨drain_keeps (P := BetweenFrames) (fun _ _ hu => hu) (fun _ _ _ => handleFrame_betweenFrames)
    (s := { s with rxbuf := s.rxbuf ++ bs }) hs h, receive_drained h⟩

theorem length_unspecifiedDigest (k : Nat) : (unspecifiedDigest k).length = Config.digestLen := by
  simp [unspecifiedDigest]

/-- Power-up keeps the NVM, from which it reads the address, and what was sent (70_reset_and_hazards.md R270). -/
theorem powerUp_inv (hs : s.Inv) (noise : Vector Byte Config.nNoiseBytes) : (s.powerUp noise).Inv where
  slotInRange _ := .inl rfl
  slotAlias := rfl
  usedFits := Nat.zero_le _
  usedSet := List.nodup_nil
  frameOpen _ := rfl
  nvmCanonical := hs.nvmCanonical
  addressStored := rfl
  digestLength := length_unspecifiedDigest _
  portIdle := rfl
  sentGood := hs.sentGood

theorem takeEvent_inv (hs : s.Inv) (h : takeEvent s = .next t) : t.Inv := by
  rcases takeEvent_cases h with
    ⟨-, rfl⟩ | ⟨_, rest, -, ⟨noise, -, rfl⟩ | ⟨-, rfl⟩ | ⟨-, -, rfl⟩ | ⟨-, bs, -, hreceive⟩⟩
  · exact hs
  · exact powerUp_inv (s := { s with events := rest }) { hs with } noise
  · exact { hs with }
  · exact { hs with frameOpen := fun _ => rfl }
  · have hbetween : BetweenFrames { s with events := rest } := { hs with frameOpen := fun _ => rfl }
    exact receive_inv hbetween hreceive

end Invariant

/-- Settles O48: the pool port is empty, so the step takes an event. -/
theorem stepKeepsTheInvariant : Obligations.StepKeepsTheInvariant := by
  intro s t hs h
  rcases step_cases h with ⟨-, r, i, hport, -⟩ | ⟨-, htake⟩
  · rw [hs.portIdle] at hport
    cases hport
  · exact takeEvent_inv hs htake

/-- Settles O47: nothing is selected, used, received or sent, and the address is what the factory's NVM holds. -/
theorem resetMeetsTheInvariant : Obligations.ResetMeetsTheInvariant where
  slotInRange _ := .inl rfl
  slotAlias := rfl
  usedFits := Nat.zero_le _
  usedSet := List.nodup_nil
  frameOpen _ := rfl
  nvmCanonical := Memory.wf_nil
  addressStored := rfl
  digestLength := length_unspecifiedDigest 0
  portIdle := rfl
  sentGood := List.forall_mem_nil _

end Sys2Proof.Proofs.Arbitration
end

section
/-! PROOFS. The entropy pool (44_entropy_pool.md): its three operations (R204, R206, R208, R210), which draws never end
and what such a draw does to the unit (R212), the counter feed that ends every frame (R214), and what else can feed the
accumulator (R217). -/

namespace Sys2Proof.Proofs.EntropyPool

open Sys2Proof Sys2Proof.Machine Sys2Proof.Proofs.Registers Sys2Proof.Proofs.StoreAndErrors
open Sys2Proof.Proofs.Encoding Sys2Proof.Proofs.Reception Sys2Proof.Proofs.DispatchAndReply
open Sys2Proof.Proofs.Arbitration

/-! ## FEED and READ_DIGEST (44_entropy_pool.md R204, R206) -/

/-- Settles O38: the update is a fold, by the law of R201. -/
theorem feedFoldsItsBytes : Obligations.FeedFoldsItsBytes :=
  fun a b s => ⟨rfl, (hashUpdate_append s.acc a b).symm, rfl⟩

/-- Settles O39: the digest is read from the accumulator before it is fed back. -/
theorem readDigestFeedsTheDigestBack : Obligations.ReadDigestFeedsTheDigestBack :=
  fun s => ⟨rfl, length_hashFinal s.acc, Nat.succ_pos _⟩

/-! ## The mask (44_entropy_pool.md R208) -/

/-- Each bit of `m` says whether one of the `n` bits of `max` from that one upward is set. -/
def Smears (n : Nat) (m max : Byte) : Prop :=
  ∀ i, m.getLsbD i = true ↔ ∃ k < n, max.getLsbD (i + k) = true

theorem smears_self (max : Byte) : Smears 1 max max := by simp [Smears]

/-- Shifting by as many bits as are covered and joining covers twice as many. -/
theorem Smears.double {n : Nat} {m max : Byte} (h : Smears n m max) : Smears (n + n) (m ||| m >>> n) max := by
  intro i
  rw [BitVec.getLsbD_or, BitVec.getLsbD_ushiftRight, Bool.or_eq_true, h, h, Nat.add_comm n i]
  constructor
  · rintro (⟨k, hk, hbit⟩ | ⟨k, hk, hbit⟩)
    · exact ⟨k, by omega, hbit⟩
    · exact ⟨n + k, by omega, by rwa [← Nat.add_assoc]⟩
  · rintro ⟨k, hk, hbit⟩
    by_cases hlow : k < n
    · exact .inl ⟨k, hlow, hbit⟩
    · exact .inr ⟨k - n, by omega, by rwa [Nat.add_assoc, Nat.add_sub_cancel' (Nat.le_of_not_lt hlow)]⟩

/-- The three shifts of the mask cover all eight bits. -/
theorem smears_maskFor (max : Byte) : Smears 8 (maskFor max) max := (smears_self max).double.double.double

/-- A bit is set in the mask exactly if `max` reaches that bit's power of two. -/
theorem getLsbD_maskFor_iff (max : Byte) (i : Nat) : (maskFor max).getLsbD i = true ↔ 2 ^ i ≤ max.toNat := by
  rw [smears_maskFor]
  constructor
  · rintro ⟨k, -, hbit⟩
    exact (Nat.pow_le_pow_right (by decide) (Nat.le_add_right i k)).trans (Nat.ge_two_pow_of_testBit hbit)
  · intro hle
    obtain ⟨j, hij, hbit⟩ := Nat.exists_ge_and_testBit_of_ge_two_pow hle
    have hj : j < 8 := BitVec.lt_of_getLsbD hbit
    exact ⟨j - i, by omega, by rwa [Nat.add_sub_cancel' hij]⟩

/-- The mask has exactly as many bits as `max`, all of them set. -/
theorem toNat_maskFor (max : Byte) : (maskFor max).toNat = 2 ^ max.toNat.size - 1 := by
  refine Nat.eq_of_testBit_eq fun i => Bool.eq_iff_iff.2 ?_
  rw [Nat.testBit_two_pow_sub_one, decide_eq_true_eq, Nat.lt_size]
  exact getLsbD_maskFor_iff max i

/-- Settles O40: `k` is the number of bits of `max`. -/
theorem maskIsTheSmallestCover : Obligations.MaskIsTheSmallestCover := by
  intro max _
  refine ⟨max.toNat.size, toNat_maskFor max, ?_, fun j hj => ?_⟩
  · rw [BitVec.le_def, toNat_maskFor]
    exact Nat.le_sub_one_of_lt (Nat.lt_size_self _)
  · exact Nat.size_le.2 (by have := Nat.two_pow_pos j; omega)

/-! ## Draws that never end (44_entropy_pool.md R212) -/

/-- Settles O42: a draw has no value exactly if it is endless. -/
theorem productiveHashMeansEveryDrawEnds : Obligations.ProductiveHashMeansEveryDrawEnds := by
  simp only [Obligations.ProductiveHashMeansEveryDrawEnds, HashProductive, ne_eq, boundedInteger_none_iff, Endless,
    not_and, not_forall]

/-- A handler has no result exactly if it reaches a pool call that never ends (41_dispatch_and_reply.md R133). -/
theorem runExt_none_iff {body : ExtBody} {q : Pool} : (runExt body q).result = none ↔ ExtEndless body q := by
  induction body generalizing q with
  | done clear out ext => simp [runExt, ExtEndless]
  | feed bytes k ih => exact ih
  | readDigest k ih => exact ih _
  | boundedInteger max k ih =>
    simp only [runExt, ExtEndless, ← boundedInteger_none_iff]
    cases hv : (boundedInteger max q).value with
    | none => simp
    | some v => simpa using ih v

/-- An extension request hangs a unit exactly if it reaches a pool call that never ends. -/
theorem extOrUnknown_hung_iff {s : State} (hlive : s.hung = false) (cmd : ExtCmd) (p : Byte) (payload : List Byte) :
    (s.extOrUnknown cmd p payload).hung = true ↔ s.extEndless cmd p payload := by
  unfold State.extEndless
  cases hmapped : Config.extMapped cmd p with
  | false => simp [extOrUnknown_of_unmapped hmapped, hlive]
  | true =>
    rw [extOrUnknown_of_mapped hmapped]
    cases hhandle : Config.extHandle s.drawIndex cmd p payload s.address s.extState with
    | lengthError => simp [extCall_of_lengthError hhandle, raisedAt, hlive]
    | run body =>
      simp only [true_and, ExtResult.run.injEq, exists_eq_left', ← runExt_none_iff]
      cases hrun : (runExt body s.pool).result with
      | none => simp [extCall_of_endless hhandle hrun]
      | some r =>
        rw [extCall_of_done hhandle hrun, extFinish_eq_afterDone]
        cases r.out <;> simp [afterDone, hlive]

section Hang

variable {s t : State} (hlive : s.hung = false)
include hlive

/-- A start of round hangs the unit exactly if it selects a slot and that selection never ends. -/
theorem exec_wrSearch_hung_iff {d : LocalDest} {n : Byte} (h : exec (.wrSearch d n) s = .next t) :
    t.hung = true ↔ s.drawsEndlessly (.wrSearch d n) := by
  by_cases hslot : s.selectedSlot = 0 ∨ n < s.selectedSlot
  · rw [startRoundSelectsASlot d n s hlive hslot] at h
    cases h
    simp only [State.drawsEndlessly, hslot, true_and, Option.isNone_iff_eq_none, selectSlot_none_iff]
  · obtain ⟨hne, hle⟩ := not_or.1 hslot
    rw [startRoundKeepsAValidSlot d n s hlive hne (BitVec.not_lt.1 hle)] at h
    cases h
    simp only [State.drawsEndlessly, hslot, false_and, hlive, Bool.false_eq_true]

/-- A poll hangs the unit exactly if it matches and the redraw never ends. -/
theorem exec_rdSearch_hung_iff {d : LocalDest} {probed : Byte} (h : exec (.rdSearch d probed) s = .next t) :
    t.hung = true ↔ s.drawsEndlessly (.rdSearch d probed) := by
  by_cases hslot : probed = s.selectedSlot
  · subst hslot
    rw [matchedPollRedrawsAndReplies d s _ _ hlive (observePoll_eq_ite s d s.selectedSlot) rfl] at h
    cases h
    simp only [State.drawsEndlessly, true_and, Option.isNone_iff_eq_none, selectSlot_none_iff]
  · rw [exec_rdSearch_of_mismatch hslot, observePoll_eq] at h
    cases h
    simp only [State.drawsEndlessly, hslot, false_and, hlive, Bool.false_eq_true]

/-- An operation hangs the unit exactly if one of its own draws never ends. -/
theorem exec_hung_iff {i : Instr} (h : exec i s = .next t) : t.hung = true ↔ s.drawsEndlessly i := by
  cases i with
  | wrSearch d n => exact exec_wrSearch_hung_iff hlive h
  | rdSearch d probed => exact exec_rdSearch_hung_iff hlive h
  | rdExt d p payload | wrExt d p payload => cases h; exact extOrUnknown_hung_iff hlive ..
  | boundedInteger max =>
    cases h
    simp only [State.drawsEndlessly, hlive, Bool.false_or, Option.isNone_iff_eq_none, boundedInteger_none_iff]
  | wrAddr2 d new slot => cases h; split <;> simp [State.drawsEndlessly, hlive]
  | _ => cases h; simp [State.drawsEndlessly, hlive]

end Hang

/-! ## BOUNDED_INTEGER (44_entropy_pool.md R210) -/

/-- The first digest with an acceptable byte is one, and so is that byte. -/
theorem firstAccept_unique {max c c' : Byte} {q : Pool} {n n' : Nat} (h : FirstAccept max q n c)
    (h' : FirstAccept max q n' c') : n = n' ∧ c = c' := by
  obtain ⟨hnone, hsome⟩ := h
  obtain ⟨hnone', hsome'⟩ := h'
  obtain rfl : n = n' := by
    rcases Nat.lt_trichotomy n n' with hlt | heq | hgt
    · cases hsome.symm.trans (hnone' n hlt)
    · exact heq
    · cases hsome'.symm.trans (hnone n' hgt)
  exact ⟨rfl, Option.some.inj (hsome.symm.trans hsome')⟩

/-- The draw takes the first acceptable byte: the fuel of its loop reaches every first acceptance. -/
theorem boundedInteger_of_firstAccept {max c : Byte} {q : Pool} {n : Nat} (hmax : max ≠ 0)
    (h : FirstAccept max q n c) : boundedInteger max q = ⟨some c, (Pool.after n q).readDigest⟩ := by
  obtain ⟨m, c', hlt, h'⟩ := firstAccept_of_accept (n := n) (by rw [h.2]; nofun)
  obtain ⟨rfl, rfl⟩ := firstAccept_unique h' h
  rw [boundedInteger, if_neg hmax, drawLoop_first hlt h]

/-- A draw that ends leaves its value in `poolResult` and the pool as its last digest leaves it. -/
theorem exec_boundedInteger_of_some {max c : Byte} {s : State} {r : Pool} (hlive : s.hung = false)
    (hdraw : boundedInteger max s.pool = ⟨some c, r⟩) :
    exec (.boundedInteger max) s = .next { s with poolResult := c, acc := r.acc, digest := r.digest } := by
  simp [exec, execBoundedInteger, hdraw, hlive]

/-- Settles O41: a draw of 0 reads no digest, any other takes the first acceptable byte or is endless. -/
theorem boundedIntegerTakesTheFirstAcceptableByte : Obligations.BoundedIntegerTakesTheFirstAcceptableByte := by
  intro max s hlive
  refine ⟨?_, fun hmax n c hnone hsome => ⟨?_, (scanDigest_some hsome).1⟩, ?_⟩
  · rintro rfl
    exact exec_boundedInteger_of_some hlive (boundedInteger_zero s.pool)
  · exact exec_boundedInteger_of_some hlive (boundedInteger_of_firstAccept hmax ⟨hnone, hsome⟩)
  · obtain ⟨t, ht⟩ := exec_answers_next (.boundedInteger max) s
    exact ⟨t, ht, exec_hung_iff hlive ht⟩

/-! ## Which step hangs the unit (44_entropy_pool.md R212) -/

/-- Which draws an operation makes does not depend on the flag. -/
theorem setSuppression_drawsEndlessly (s : State) (dest : DestClass) (i : Instr) :
    (s.setSuppression dest).drawsEndlessly i ↔ s.drawsEndlessly i := by
  cases i with
  | rdSearch d probed => cases d <;> rfl
  | _ => rfl

/-- Which draws an operation makes does not depend on what waits on the pool port. -/
theorem withPort_drawsEndlessly (s : State) (r : Option PoolRequest) (i : Instr) :
    ({ s with port := r } : State).drawsEndlessly i ↔ s.drawsEndlessly i := by
  cases i with
  | rdSearch d probed => cases d <;> rfl
  | _ => rfl

/-- A frame that hangs the unit decodes to an operation that draws endlessly. -/
theorem drawsEndlessly_of_handleFrame {f : List Byte} {s t : State} (hlive : s.hung = false)
    (h : handleFrame f s = .next t) (ht : t.hung = true) :
    ∃ i, decode s.address f = .ok i ∧ s.drawsEndlessly i := by
  have hne : ¬ s.hung = true := Bool.eq_false_iff.1 hlive
  rcases handleFrame_cases h with rfl | ⟨i, u, hdecode, hexec, rfl⟩ | ⟨-, rfl⟩ | ⟨-, rfl⟩
  · exact absurd ht hne
  · have hend := (exec_hung_iff (s := s.setSuppression _) hlive hexec).1 ht
    exact ⟨i, hdecode, (setSuppression_drawsEndlessly ..).1 hend⟩
  · exact absurd ht hne
  · exact absurd ht hne

/-- Received bytes may as well stand in the buffer (40_frame_reception.md R90). -/
theorem receive_append (a b : List Byte) (s : State) :
    receive (a ++ b) s = receive b { s with rxbuf := s.rxbuf ++ a } := by
  simp only [receive, List.append_assoc, List.length_append, Nat.add_assoc]

/-- The frame at the front of a complete buffer has the length it declares (40_frame_reception.md R96). -/
theorem declaredLength_take_frontLength {s : State} (h : isFrameComplete s.rxbuf = true) :
    declaredLength (s.rxbuf.take s.frontLength) = some (s.rxbuf.take s.frontLength).length := by
  obtain ⟨hdeclared, hmin, hle⟩ := frontLength_le h
  have hlen : (s.rxbuf.take s.frontLength).length = s.frontLength := List.length_take_of_le hle
  cases hfront : declaredLength (s.rxbuf.take s.frontLength) with
  | none => have := declaredLength_eq_none_iff.1 hfront; omega
  | some n =>
    have happend := declaredLength_append hfront (s.rxbuf.drop s.frontLength)
    rw [List.take_append_drop, hdeclared] at happend
    rw [hlen, happend]

/-- Among the bytes in the buffer there is a frame whose operation, in the state `u` that the bytes before it lead to,
draws endlessly. -/
def EndlessFrameWithin (buf : List Byte) (s : State) : Prop :=
  ∃ (before f after : List Byte) (u : State) (i : Instr), buf = before ++ f ++ after ∧
    receive before { s with rxbuf := [] } = .next u ∧ u.rxbuf = [] ∧ u.hung = false ∧
    decode u.address f = .ok i ∧ u.drawsEndlessly i

/-- What is within the bytes that follow a whole frame, for the state its handling leaves, is within all of them: the
frame joins the bytes before. -/
theorem EndlessFrameWithin.cons_frame {f buf : List Byte} {s v : State} (hlive : s.hung = false)
    (hexact : declaredLength f = some f.length) (hframe : handleFrame f { s with rxbuf := [] } = .next v)
    (h : EndlessFrameWithin buf v) : EndlessFrameWithin (f ++ buf) s := by
  obtain ⟨before, g, after, u, i, rfl, hreceive, hu⟩ := h
  refine ⟨f ++ before, g, after, u, i, by simp, ?_, hu⟩
  have hempty : { v with rxbuf := [] } = v := by
    have := (handleFrame_keeps_input hframe).1
    cases v
    simp_all
  rw [receive_append, ← hreceive, hempty]
  exact receive_of_frame (s := { s with rxbuf := f }) hlive hexact hframe before

/-- Draining hangs the unit only in a frame of the buffer that draws endlessly. -/
theorem endlessFrameWithin_of_drain {fuel : Nat} {s t : State} (hlive : s.hung = false)
    (h : drain fuel s = .next t) (ht : t.hung = true) : EndlessFrameWithin s.rxbuf s := by
  induction fuel generalizing s with
  | zero => cases h; rw [hlive] at ht; cases ht
  | succ n ih =>
    rw [drain_succ] at h
    split at h
    case isFalse => cases h; rw [hlive] at ht; cases ht
    case isTrue hturn =>
      have hcomplete : isFrameComplete s.rxbuf = true := (Bool.and_eq_true_iff.1 hturn).1
      obtain ⟨v, hv⟩ := handleFrame_answers_next (s.rxbuf.take s.frontLength)
        { s with rxbuf := s.rxbuf.drop s.frontLength }
      have hbuf : v.rxbuf = s.rxbuf.drop s.frontLength := (handleFrame_keeps_input hv).1
      have halone := handleFrame_withRxbuf [] hv
      rw [hv] at h
      cases hvhung : v.hung with
      | true =>
        obtain ⟨i, hdecode, hend⟩ := drawsEndlessly_of_handleFrame (s := { s with rxbuf := [] }) hlive halone hvhung
        exact ⟨[], _, _, { s with rxbuf := [] }, i, (List.take_append_drop ..).symm, receive_nil (.inr rfl), rfl,
          hlive, hdecode, hend⟩
      | false =>
        have hrest := ih hvhung h
        rw [hbuf] at hrest
        rw [← List.take_append_drop s.frontLength s.rxbuf]
        exact EndlessFrameWithin.cons_frame hlive (declaredLength_take_frontLength hcomplete) halone hrest

/-- Settles O43: a step runs the operation on the pool port, or receives bytes, which it drains frame by frame. -/
theorem onlyAnEndlessDrawHangsTheUnit : Obligations.OnlyAnEndlessDrawHangsTheUnit := by
  refine ⟨fun i s t hlive h => exec_hung_iff hlive h, fun s t hlive h => ?_⟩
  cases ht : t.hung with
  | false => exact .inl rfl
  | true =>
    have hne : s.hung ≠ true := Bool.eq_false_iff.1 hlive
    refine .inr ?_
    rcases step_cases h with ⟨-, r, i, hport, hdecode, hexec⟩ | ⟨hport, htake⟩
    · have hend := (exec_hung_iff (s := { s with port := none }) hlive hexec).1 ht
      exact .inl ⟨r, i, hport, hdecode, (withPort_drawsEndlessly ..).1 hend⟩
    · rcases takeEvent_cases htake with
        ⟨-, rfl⟩ | ⟨e, rest, hevents, ⟨noise, -, rfl⟩ | ⟨hhung, -⟩ | ⟨-, -, rfl⟩ | ⟨-, bs, hevent, hreceive⟩⟩
      · exact absurd ht hne
      · cases ht
      · exact absurd hhung hne
      · exact absurd ht hne
      · obtain ⟨before, f, after, u, i, hbytes, hu⟩ :=
          endlessFrameWithin_of_drain (s := { s with events := rest, rxbuf := s.rxbuf ++ bs }) hlive hreceive ht
        exact .inr ⟨e, rest, bs, before, f, after, u, i, hport.resolve_right hne, hevents,
          hevent.imp_right fun ⟨b, hb, hbs, _⟩ => ⟨b, hb, hbs⟩, hbytes, hu⟩

/-! ## A hung unit (44_entropy_pool.md R212) -/

/-- A hung unit serves no pool request and takes the oldest event as a hung unit does. -/
theorem step_of_hung {s : State} {e : Event} {rest : List Event} (hhung : s.hung = true)
    (hevents : s.events = e :: rest) : step s = handleHung e { s with events := rest } := by
  have htake : takeEvent s = handleHung e { s with events := rest } := by
    simp only [takeEvent, hevents, hhung, if_true]
  rw [step, nextAction]
  split <;> simp only [hhung, if_true, htake]

/-- Settles O44: the event is lost unless it is a power-up. -/
theorem hungUnitWaitsForPowerUp : Obligations.HungUnitWaitsForPowerUp := by
  intro s e rest hhung hevents
  rw [step_of_hung hhung hevents]
  constructor
  · intro hother
    cases e with
    | reset noise => exact absurd rfl (hother noise)
    | rxByte b | rxBytes bs | rxFlush => rfl
  · rintro noise rfl
    exact ⟨_, rfl, rfl, rfl, rfl⟩

/-! ## The counter feed (44_entropy_pool.md R214) -/

/-- A whole frame decodes, or is rejected for its checksum as its destination says (40_frame_reception.md R99, R100). -/
theorem decode_whole_cases {f : List Byte} (hexact : declaredLength f = some f.length) (address : Byte) :
    (∃ i, decode address f = .ok i) ∨
    (decode address f = .error .badChecksumUnicast ∧ classify address (operandByte f 0) = .unicast) ∨
    (decode address f = .error .badChecksumBroadcast ∧ classify address (operandByte f 0) = .broadcast) := by
  obtain ⟨fr, hparse⟩ := parseFrame_isOk hexact
  rw [operandByte_dest hparse]
  cases hc : classify address fr.dest with
  | foreign => exact .inl ⟨_, decode_foreign hparse hc⟩
  | unicast =>
    rw [decode_unicast hparse hc]
    split
    · exact .inl ⟨_, rfl⟩
    · exact .inr (.inl ⟨rfl, rfl⟩)
  | broadcast =>
    rw [decode_broadcast hparse hc]
    split
    · exact .inl ⟨_, rfl⟩
    · exact .inr (.inr ⟨rfl, rfl⟩)

/-- The state `s` with the flag as the frame `f` sets it (40_frame_reception.md R97). -/
def flagged (f : List Byte) (s : State) : State :=
  { s with respondSuppressed := decide (operandByte f 0 = 0xFF) }

/-- A whole frame is the counter feed on the state `u` that its operation leaves. -/
theorem handleFrame_whole_cases {f : List Byte} {s t : State} (hexact : declaredLength f = some f.length)
    (h : handleFrame f s = .next t) :
    ∃ u, t = u.counterFeed ∧
      ((∃ i, decode s.address f = .ok i ∧ exec i (flagged f s) = .next u) ∨
       (decode s.address f = .error .badChecksumUnicast ∧ exec .errBadChecksum (flagged f s) = .next u) ∨
       (decode s.address f = .error .badChecksumBroadcast ∧ u = flagged f s)) := by
  have hflag : s.setSuppression (classify s.address (operandByte f 0)) = flagged f s := setSuppression_classify ..
  rcases decode_whole_cases hexact s.address with ⟨i, hdecode⟩ | ⟨hdecode, hc⟩ | ⟨hdecode, hc⟩
  · rw [handleFrame_of_decode hdecode, hflag] at h
    obtain ⟨u, hu⟩ := exec_answers_next i (flagged f s)
    rw [hu] at h
    cases h
    exact ⟨u, rfl, .inl ⟨i, hdecode, hu⟩⟩
  · simp only [handleFrame, hdecode, ← hc, hflag] at h
    cases h
    exact ⟨_, rfl, .inr (.inl ⟨hdecode, rfl⟩)⟩
  · simp only [handleFrame, hdecode, ← hc, hflag] at h
    cases h
    exact ⟨_, rfl, .inr (.inr ⟨hdecode, rfl⟩)⟩

/-- The operation leaves the pool, the number of the next draw and the flag `hung` alone. -/
structure PoolUntouched (s u : State) : Prop where
  acc : u.acc = s.acc
  digest : u.digest = s.digest
  drawIndex : u.drawIndex = s.drawIndex
  hung : u.hung = s.hung

/-- Of the operations a frame decodes to, only the two that select a slot and the two extension requests make draws. -/
theorem exec_poolUntouched {f : List Byte} {i : Instr} {address : Byte} {s u : State}
    (hdecode : decode address f = .ok i)
    (hrow : i.requestRow ≠ some .wrSearch ∧ i.requestRow ≠ some .rdSearch ∧ i.requestRow ≠ some .rdExt ∧
      i.requestRow ≠ some .wrExt)
    (h : exec i s = .next u) : PoolUntouched s u := by
  obtain ⟨hrequest, -⟩ := decodedFrameEncodesBack address 0 f i hdecode
  obtain ⟨hwrSearch, hrdSearch, hrdExt, hwrExt⟩ := hrow
  cases i with
  | wrSearch => exact absurd rfl hwrSearch
  | rdSearch => exact absurd rfl hrdSearch
  | rdExt => exact absurd rfl hrdExt
  | wrExt => exact absurd rfl hwrExt
  | feed | readDigest | boundedInteger => cases hrequest
  | wrAddr2 d new slot => cases h; split <;> exact ⟨rfl, rfl, rfl, rfl⟩
  | _ => cases h; exact ⟨rfl, rfl, rfl, rfl⟩

/-- Settles O11: the three ways a whole frame can go, each followed by the feed. -/
theorem everyFrameEndsWithOneCounterFeed : Obligations.EveryFrameEndsWithOneCounterFeed := by
  intro f s t hexact h
  obtain ⟨u, rfl, hcases⟩ := handleFrame_whole_cases hexact h
  have hoperation : (∀ i, decode s.address f = .ok i → exec i (flagged f s) = .next u) ∧
      (decode s.address f = .error .badChecksumUnicast → exec .errBadChecksum (flagged f s) = .next u) ∧
      (decode s.address f = .error .badChecksumBroadcast → u = flagged f s) := by
    rcases hcases with ⟨i, hdecode, hexec⟩ | ⟨hdecode, hexec⟩ | ⟨hdecode, hflagged⟩
    · simpa [hdecode] using hexec
    · simpa [hdecode] using hexec
    · simpa [hdecode] using hflagged
  obtain ⟨hok, hunicast, hbroadcast⟩ := hoperation
  refine ⟨⟨u, hok, hunicast, hbroadcast, State.counterFeed_live, State.counterFeed_of_hung⟩, fun hlive hrow => ?_⟩
  have hpool : PoolUntouched s u := by
    rcases hcases with ⟨i, hdecode, hexec⟩ | ⟨-, hexec⟩ | ⟨-, rfl⟩
    · exact { exec_poolUntouched hdecode (hrow i hdecode) hexec with }
    · cases hexec; exact ⟨rfl, rfl, rfl, rfl⟩
    · exact ⟨rfl, rfl, rfl, rfl⟩
  simp [hpool.acc, hpool.digest, hpool.drawIndex, hpool.hung, hlive]

/-! ## What feeds the accumulator (44_entropy_pool.md R217) -/

/-- The operation has read some digests and done nothing else to the pool, and no numbered draw was made. -/
def DigestsOnly (s u : State) : Prop := (∃ n, u.acc = (Pool.after n s.pool).acc) ∧ u.drawIndex = s.drawIndex

theorem PoolUntouched.digestsOnly {s u : State} (h : PoolUntouched s u) : DigestsOnly s u := ⟨⟨0, h.acc⟩, h.drawIndex⟩

theorem takeSlot_digestsOnly {s u : State} (hpool : u.pool = s.pool) (hindex : u.drawIndex = s.drawIndex) :
    DigestsOnly s u.takeSlot := by
  obtain ⟨n, hn⟩ := selectSlot_after u.slotCount u.usedSlots u.pool
  exact ⟨⟨n, by rw [State.takeSlot_acc, hn, hpool]⟩, hindex⟩

theorem exec_wrSearch_digestsOnly {d : LocalDest} {n : Byte} {s u : State} (h : exec (.wrSearch d n) s = .next u) :
    DigestsOnly s u := by
  cases h
  split
  · have hdrawn : DigestsOnly s (s.beginRound n).takeSlot := takeSlot_digestsOnly rfl rfl
    exact State.whenLive_keeps hdrawn fun _ => hdrawn
  · exact State.whenLive_keeps ⟨⟨0, rfl⟩, rfl⟩ fun _ => ⟨⟨0, rfl⟩, rfl⟩

theorem exec_rdSearch_digestsOnly {d : LocalDest} {probed : Byte} {s u : State}
    (h : exec (.rdSearch d probed) s = .next u) : DigestsOnly s u := by
  cases h
  rw [observePoll_eq]
  split
  · have hdrawn : DigestsOnly s
        ({ s with usedSlots := (s.observePoll d probed).usedSlots } : State).takeSlot := takeSlot_digestsOnly rfl rfl
    exact State.whenLive_keeps hdrawn fun _ => hdrawn
  · exact ⟨⟨0, rfl⟩, rfl⟩

/-- An extension request that is not mapped is an error and reads no digest (41_dispatch_and_reply.md R124). -/
theorem adoptExt_digestsOnly {cmd : ExtCmd} {p : Byte} (hunmapped : Config.extMapped cmd p = false) (s : State)
    (payload : List Byte) : DigestsOnly s (s.adoptExt (s.extOrUnknown cmd p payload)) := by
  rw [extOrUnknown_of_unmapped hunmapped]
  exact ⟨⟨0, rfl⟩, rfl⟩

/-- Of the operations a frame decodes to, only the mapped extension requests do more to the pool than read digests. -/
theorem exec_digestsOnly {f : List Byte} {i : Instr} {address : Byte} {s u : State}
    (hdecode : decode address f = .ok i)
    (hread : ∀ d p payload, i = .rdExt d p payload → Config.extMapped .read p = false)
    (hwrite : ∀ d p payload, i = .wrExt d p payload → Config.extMapped .write p = false)
    (h : exec i s = .next u) : DigestsOnly s u := by
  cases i with
  | wrSearch d n => exact exec_wrSearch_digestsOnly h
  | rdSearch d probed => exact exec_rdSearch_digestsOnly h
  | rdExt d p payload => cases h; exact adoptExt_digestsOnly (hread d p payload rfl) s payload
  | wrExt d p payload => cases h; exact adoptExt_digestsOnly (hwrite d p payload rfl) s payload
  | _ => exact (exec_poolUntouched hdecode (by simp [Instr.requestRow]) h).digestsOnly

/-- Settles O52: the operation only reads digests, and the counter feed follows it unless the unit hangs. -/
theorem framesFeedOnlyDigestsAndTheCounter : Obligations.FramesFeedOnlyDigestsAndTheCounter := by
  intro f s t _ hexact hread hwrite h
  obtain ⟨u, rfl, hcases⟩ := handleFrame_whole_cases hexact h
  have hpool : DigestsOnly s u := by
    rcases hcases with ⟨i, hdecode, hexec⟩ | ⟨-, hexec⟩ | ⟨-, rfl⟩
    · exact exec_digestsOnly (s := flagged f s) hdecode (fun d p payload hi => hread d p payload (hi ▸ hdecode))
        (fun d p payload hi => hwrite d p payload (hi ▸ hdecode)) hexec
    · cases hexec; exact ⟨⟨0, rfl⟩, rfl⟩
    · exact ⟨⟨0, rfl⟩, rfl⟩
  obtain ⟨⟨n, hacc⟩, hindex⟩ := hpool
  exact ⟨n, by rw [State.counterFeed_acc, State.counterFeed_hung, hacc, hindex]⟩

theorem receive_port {bs : List Byte} {s t : State} (h : receive bs s = .next t) : t.port = s.port :=
  drain_keeps (P := fun u => u.port = s.port) (fun _ _ hu => hu)
    (fun _ _ _ hu hv => (handleFrame_keeps_input hv).2.2.trans hu) (s := { s with rxbuf := s.rxbuf ++ bs }) rfl h

/-- Bytes that complete no frame are only stored. -/
theorem receive_of_incomplete {bs : List Byte} {s : State} (h : isFrameComplete (s.rxbuf ++ bs) = false) :
    receive bs s = .next { s with rxbuf := s.rxbuf ++ bs } :=
  drain_of_drained (s := { s with rxbuf := s.rxbuf ++ bs }) (.inr h) _

/-- Settles O51: with the port empty the step takes an event, and received bytes that complete no frame are stored. -/
theorem onlyFramesAndPowerUpFeedThePool : Obligations.OnlyFramesAndPowerUpFeedThePool := by
  intro s t hport h
  rcases step_cases h with ⟨-, r, i, hr, -⟩ | ⟨-, htake⟩
  · rw [hport] at hr; cases hr
  · rcases takeEvent_cases htake with
      ⟨-, rfl⟩ | ⟨e, rest, hevents, ⟨noise, rfl, rfl⟩ | ⟨-, rfl⟩ | ⟨-, -, rfl⟩ | ⟨-, bs, hevent, hreceive⟩⟩
    · exact ⟨hport, .inl rfl⟩
    · exact ⟨rfl, .inr (.inl ⟨noise, rest, hevents⟩)⟩
    · exact ⟨hport, .inl rfl⟩
    · exact ⟨hport, .inl rfl⟩
    · refine ⟨(receive_port hreceive).trans hport, ?_⟩
      cases hcomplete : isFrameComplete (s.rxbuf ++ bs) with
      | true =>
        exact .inr (.inr ⟨e, rest, bs, hevents, hevent.imp_right fun ⟨b, hb, hbs, _⟩ => ⟨b, hb, hbs⟩, hcomplete⟩)
      | false =>
        rw [receive_of_incomplete (s := { s with events := rest }) hcomplete] at hreceive
        cases hreceive
        exact .inl rfl

end Sys2Proof.Proofs.EntropyPool
end

section
/-! PROOFS. Exceptions (60_exceptions.md): what each of the four errors sends (R230, R236), and that a frame to this unit
with a bad checksum always draws the first of them (R231). -/

namespace Sys2Proof.Proofs.Exceptions

open Sys2Proof Sys2Proof.Machine

/-- Settles O18: each of the four operations raises its error, which writes `tx` through the gate and nothing else. -/
theorem errorRepliesCarryTheirReason : Obligations.ErrorRepliesCarryTheirReason := by
  intro s p
  refine ⟨?_, ?_, ?_, ?_⟩ <;> exact congrArg Host.Outcome.next (s.raise_eq _ _)

/-- A whole frame to this unit whose checksum fails is rejected for that (40_frame_reception.md R100). -/
theorem decode_of_badChecksum_unicast {f : List Byte} {address : Byte} (hexact : declaredLength f = some f.length)
    (hc : classify address (operandByte f 0) = .unicast) (hbad : checksumOk f = false) :
    decode address f = .error .badChecksumUnicast := by
  obtain ⟨fr, hparse⟩ := parseFrame_isOk hexact
  rw [operandByte_dest hparse] at hc
  rw [decode_unicast hparse hc, hbad]
  rfl

/-- A frame rejected so runs BAD_CHECKSUM with the flag false, and then the counter is fed (60_exceptions.md R231). -/
theorem handleFrame_of_badChecksumUnicast {f : List Byte} {s : State}
    (h : decode s.address f = .error .badChecksumUnicast) :
    handleFrame f s = closeFrame (exec .errBadChecksum { s with respondSuppressed := false }) := by
  simp only [handleFrame, h]
  rfl

/-- Settles O12: the frame takes the Bad checksum exception with the flag false, so the gate lets the reply through. -/
theorem badUnicastChecksumDrawsAReply : Obligations.BadUnicastChecksumDrawsAReply := by
  intro f s hexact hc hbad
  obtain ⟨hreply, -⟩ := errorRepliesCarryTheirReason { s with respondSuppressed := false } 0
  rw [handleFrame_of_badChecksumUnicast (decode_of_badChecksum_unicast hexact hc hbad), hreply]
  rfl

end Sys2Proof.Proofs.Exceptions
end

section
/-! PROOFS. Reset and hazards (70_reset_and_hazards.md): a power-up is taken whether or not the unit hangs, and leaves the
reset values (R270). -/

namespace Sys2Proof.Proofs.ResetAndHazards

open Sys2Proof Sys2Proof.Machine

/-- The seed is one stream of bytes, the noise and then the stored block (44_entropy_pool.md R201, R215). -/
theorem seedAcc_eq_hashUpdate (noise : Vector Byte Config.nNoiseBytes) (m : Memory) :
    seedAcc noise m =
      hashUpdate Config.hashInit (noise.toList ++ m.block Config.seedNvmBase Config.seedNvmLen) :=
  (hashUpdate_append ..).symm

/-- Power-up is the one event that a hung unit handles as a live one does (44_entropy_pool.md R212). -/
theorem step_of_reset {s : State} {noise : Vector Byte Config.nNoiseBytes} {rest : List Event} (hport : s.port = none)
    (hevents : s.events = .reset noise :: rest) :
    step s = .next (({ s with events := rest } : State).powerUp noise) := by
  cases hhung : s.hung with
  | true => exact EntropyPool.step_of_hung hhung hevents
  | false => exact Reception.step_of_event hhung hport hevents

/-- Settles O45: the step is `State.powerUp`, whose fields but the accumulator are the reset values as written. -/
theorem powerUpReachesTheResetValues : Obligations.PowerUpReachesTheResetValues := by
  intro s noise rest hport hevents
  have hacc : (({ s with events := rest } : State).powerUp noise).acc =
      hashUpdate Config.hashInit (noise.toList ++ s.nvm.block Config.seedNvmBase Config.seedNvmLen) :=
    seedAcc_eq_hashUpdate noise s.nvm
  exact ⟨_, step_of_reset hport hevents, rfl, rfl, rfl, rfl, rfl, rfl, rfl, rfl, hacc, rfl, rfl⟩

end Sys2Proof.Proofs.ResetAndHazards
end
